-- ==== Sys2Proof/Word.lean ====
section
/-! DEFINITION. The machine's word types (spec 00_scope.md R7, R8; 10_state.md R22, R36; 47_floating_point.md R274)
and their plainest arithmetic. -/

namespace Sys2Proof

/-- 8 bits, the unit of memory (R42). -/
abbrev Byte := BitVec 8

/-- 16 bits, "halfword (2 bytes)" (R16). -/
abbrev Half := BitVec 16

/-- 32 bits: an integer register, an address, an instruction (XLEN = 32, R6). -/
abbrev Word := BitVec 32

/-- 64 bits: a double word, and a binary64 value (R16, R274). -/
abbrev Dword := BitVec 64

/-- The number of an integer register as an instruction encodes it, 0 to 31 (R22). -/
abbrev Reg := BitVec 5

/-- The number of a 32-bit floating register as an instruction encodes it, 0 to 31 (R36). -/
abbrev FReg := BitVec 5

/-- `hi ‖ lo`: the 64 bits whose high word is `hi` (R7). -/
def joinWords (hi lo : Word) : Dword := hi ++ lo

/-- Bits 63:32 of a double word. -/
def highWord (d : Dword) : Word := d.extractLsb' 32 32

/-- Bits 31:0 of a double word. -/
def lowWord (d : Dword) : Word := d.extractLsb' 0 32

end Sys2Proof
end

