-- ==== Sys2Proof/Syntax.lean ====
section
/-! DEFINITION. The instructions of spec/opcode_table.json, one constructor a row (87 rows; rules R120 to R307). Fields
are what an encoding carries, at their encoded widths (30_encoding.md R85); reserved fields are no part of an instruction
(the decoder refuses a word with a nonzero one, R97). -/

namespace Sys2Proof

/-- `reg_or_immed`: "either a reg or a 13 bit signed immediate value (simm13)" (00_scope.md R10; 30_encoding.md R84, R92). -/
inductive RegOrImm
  | reg (rs2 : Reg)
  | imm (simm13 : BitVec 13)
  deriving DecidableEq, Repr

/-- The second operand of a shift: a register, or the 5-bit field `shcnt` (30_encoding.md R96; 42_shifts.md R160). -/
inductive ShiftCount
  | reg (rs2 : Reg)
  | imm (shcnt : BitVec 5)
  deriving DecidableEq, Repr

/-- The 87 instructions. Source operands come first and the destination last, as the source writes them (R102); a load or
store lists its address operands before the register it loads or stores. -/
inductive Instr
  /- Arithmetic instructions (40_arithmetic.md) -/
  /-- `add reg_rs1, reg_or_immed, reg_rd` (R120). -/
  | add (rs1 : Reg) (src2 : RegOrImm) (rd : Reg)
  /-- `addcc reg_rs1, reg_or_immed, reg_rd` (R121). -/
  | addcc (rs1 : Reg) (src2 : RegOrImm) (rd : Reg)
  /-- `sub reg_rs1, reg_or_immed, reg_rd` (R122). -/
  | sub (rs1 : Reg) (src2 : RegOrImm) (rd : Reg)
  /-- `subcc reg_rs1, reg_or_immed, reg_rd` (R123). -/
  | subcc (rs1 : Reg) (src2 : RegOrImm) (rd : Reg)
  /-- `umul reg_rs1, reg_or_immed, reg_rd` (R124). -/
  | umul (rs1 : Reg) (src2 : RegOrImm) (rd : Reg)
  /-- `umulcc reg_rs1, reg_or_immed, reg_rd` (R125). -/
  | umulcc (rs1 : Reg) (src2 : RegOrImm) (rd : Reg)
  /-- `smul reg_rs1, reg_or_immed, reg_rd` (R126). -/
  | smul (rs1 : Reg) (src2 : RegOrImm) (rd : Reg)
  /-- `smulcc reg_rs1, reg_or_immed, reg_rd` (R127). -/
  | smulcc (rs1 : Reg) (src2 : RegOrImm) (rd : Reg)
  /-- `udiv reg_rs1, reg_or_immed, reg_rd` (R128). -/
  | udiv (rs1 : Reg) (src2 : RegOrImm) (rd : Reg)
  /-- `udivcc reg_rs1, reg_or_immed, reg_rd` (R129). -/
  | udivcc (rs1 : Reg) (src2 : RegOrImm) (rd : Reg)
  /-- `sdiv reg_rs1, reg_or_immed, reg_rd` (R130). -/
  | sdiv (rs1 : Reg) (src2 : RegOrImm) (rd : Reg)
  /-- `sdivcc reg_rs1, reg_or_immed, reg_rd` (R131). -/
  | sdivcc (rs1 : Reg) (src2 : RegOrImm) (rd : Reg)
  /- Logical instructions (41_logical.md) -/
  /-- `and reg_rs1, reg_or_immed, reg_rd` (R141). -/
  | and (rs1 : Reg) (src2 : RegOrImm) (rd : Reg)
  /-- `andcc reg_rs1, reg_or_immed, reg_rd` (R142). -/
  | andcc (rs1 : Reg) (src2 : RegOrImm) (rd : Reg)
  /-- `andn reg_rs1, reg_or_immed, reg_rd` (R143). -/
  | andn (rs1 : Reg) (src2 : RegOrImm) (rd : Reg)
  /-- `andncc reg_rs1, reg_or_immed, reg_rd` (R144). -/
  | andncc (rs1 : Reg) (src2 : RegOrImm) (rd : Reg)
  /-- `or reg_rs1, reg_or_immed, reg_rd` (R145). -/
  | or (rs1 : Reg) (src2 : RegOrImm) (rd : Reg)
  /-- `orcc reg_rs1, reg_or_immed, reg_rd` (R146). -/
  | orcc (rs1 : Reg) (src2 : RegOrImm) (rd : Reg)
  /-- `orn reg_rs1, reg_or_immed, reg_rd` (R147). -/
  | orn (rs1 : Reg) (src2 : RegOrImm) (rd : Reg)
  /-- `orncc reg_rs1, reg_or_immed, reg_rd` (R148). -/
  | orncc (rs1 : Reg) (src2 : RegOrImm) (rd : Reg)
  /-- `xor reg_rs1, reg_or_immed, reg_rd` (R149). -/
  | xor (rs1 : Reg) (src2 : RegOrImm) (rd : Reg)
  /-- `xorcc reg_rs1, reg_or_immed, reg_rd` (R150). -/
  | xorcc (rs1 : Reg) (src2 : RegOrImm) (rd : Reg)
  /-- `xnor reg_rs1, reg_or_immed, reg_rd` (R151). -/
  | xnor (rs1 : Reg) (src2 : RegOrImm) (rd : Reg)
  /-- `xnorcc reg_rs1, reg_or_immed, reg_rd` (R152). -/
  | xnorcc (rs1 : Reg) (src2 : RegOrImm) (rd : Reg)
  /- Shifts (42_shifts.md) -/
  /-- `sll reg_rs1, reg_or_immed, reg_rd` (R161). -/
  | sll (rs1 : Reg) (count : ShiftCount) (rd : Reg)
  /-- `srl reg_rs1, reg_or_immed, reg_rd` (R162). -/
  | srl (rs1 : Reg) (count : ShiftCount) (rd : Reg)
  /-- `sra reg_rs1, reg_or_immed, reg_rd` (R163). -/
  | sra (rs1 : Reg) (count : ShiftCount) (rd : Reg)
  /- Miscellaneous (43_miscellaneous.md) -/
  /-- `nop` (R171): the one word 0x01000000. -/
  | nop
  /-- `sethi const22, reg_rd` (R170). -/
  | sethi (imm22 : BitVec 22) (rd : Reg)
  /- Control (44_control.md) -/
  /-- `save reg_rs1, reg_or_immed, reg_rd` (R180). -/
  | save (rs1 : Reg) (src2 : RegOrImm) (rd : Reg)
  /-- `restore reg_rs1, reg_or_immed, reg_rd` (R181). -/
  | restore (rs1 : Reg) (src2 : RegOrImm) (rd : Reg)
  /-- `call label` (R182). -/
  | call (disp30 : BitVec 30)
  /-- `jmpl address, reg_rd` (R183). -/
  | jmpl (rs1 : Reg) (src2 : RegOrImm) (rd : Reg)
  /- Integer branches (45_branches.md); `annul` is the `,a` suffix -/
  /-- `ba{,a} label` (R202). -/
  | ba (annul : Bool) (disp22 : BitVec 22)
  /-- `bn{,a} label` (R203). -/
  | bn (annul : Bool) (disp22 : BitVec 22)
  /-- `bne{,a} label` (R204). -/
  | bne (annul : Bool) (disp22 : BitVec 22)
  /-- `be{,a} label` (R205). -/
  | be (annul : Bool) (disp22 : BitVec 22)
  /-- `bg{,a} label` (R206). -/
  | bg (annul : Bool) (disp22 : BitVec 22)
  /-- `ble{,a} label` (R207). -/
  | ble (annul : Bool) (disp22 : BitVec 22)
  /-- `bge{,a} label` (R208). -/
  | bge (annul : Bool) (disp22 : BitVec 22)
  /-- `bl{,a} label` (R209). -/
  | bl (annul : Bool) (disp22 : BitVec 22)
  /-- `bgu{,a} label` (R210). -/
  | bgu (annul : Bool) (disp22 : BitVec 22)
  /-- `bleu{,a} label` (R211). -/
  | bleu (annul : Bool) (disp22 : BitVec 22)
  /-- `bcc{,a} label` (R212). -/
  | bcc (annul : Bool) (disp22 : BitVec 22)
  /-- `bcs{,a} label` (R213). -/
  | bcs (annul : Bool) (disp22 : BitVec 22)
  /-- `bpos{,a} label` (R214). -/
  | bpos (annul : Bool) (disp22 : BitVec 22)
  /-- `bneg{,a} label` (R215). -/
  | bneg (annul : Bool) (disp22 : BitVec 22)
  /-- `bvc{,a} label` (R216). -/
  | bvc (annul : Bool) (disp22 : BitVec 22)
  /-- `bvs{,a} label` (R217). -/
  | bvs (annul : Bool) (disp22 : BitVec 22)
  /- Integer loads and stores (46_load_store.md); `rd` is the register loaded or stored -/
  /-- `ldsb [address], reg_rd` (R231). -/
  | ldsb (rs1 : Reg) (src2 : RegOrImm) (rd : Reg)
  /-- `ldsh [address], reg_rd` (R232). -/
  | ldsh (rs1 : Reg) (src2 : RegOrImm) (rd : Reg)
  /-- `ldub [address], reg_rd` (R233). -/
  | ldub (rs1 : Reg) (src2 : RegOrImm) (rd : Reg)
  /-- `lduh [address], reg_rd` (R234). -/
  | lduh (rs1 : Reg) (src2 : RegOrImm) (rd : Reg)
  /-- `ld [address], reg_rd` (R235). -/
  | ld (rs1 : Reg) (src2 : RegOrImm) (rd : Reg)
  /-- `ldd [address], reg_rd` (R236). -/
  | ldd (rs1 : Reg) (src2 : RegOrImm) (rd : Reg)
  /-- `stb reg_rd, [address]` (R237). -/
  | stb (rs1 : Reg) (src2 : RegOrImm) (rd : Reg)
  /-- `sth reg_rd, [address]` (R238). -/
  | sth (rs1 : Reg) (src2 : RegOrImm) (rd : Reg)
  /-- `st reg_rd, [address]` (R239). -/
  | st (rs1 : Reg) (src2 : RegOrImm) (rd : Reg)
  /-- `std reg_rd, [address]` (R240). -/
  | std (rs1 : Reg) (src2 : RegOrImm) (rd : Reg)
  /- Floating-point operations (47_floating_point.md) -/
  /-- `faddd regs1, regs2, regd` (R261). -/
  | faddd (rs1 rs2 rd : FReg)
  /-- `fsubd regs1, regs2, regd` (R262). -/
  | fsubd (rs1 rs2 rd : FReg)
  /-- `fmuld regs1, regs2, regd` (R263). -/
  | fmuld (rs1 rs2 rd : FReg)
  /-- `fdivd regs1, regs2, regd` (R264). -/
  | fdivd (rs1 rs2 rd : FReg)
  /- Floating-point moves and conversions -/
  /-- `fmovd regs, regd` (R265). -/
  | fmovd (rs2 rd : FReg)
  /-- `fnegd regs, regd` (R266). -/
  | fnegd (rs2 rd : FReg)
  /-- `fabsd regs, regd` (R267). -/
  | fabsd (rs2 rd : FReg)
  /-- `fitod regs, regd` (R268). -/
  | fitod (rs2 rd : FReg)
  /-- `fdtoi regs, regd` (R269). -/
  | fdtoi (rs2 rd : FReg)
  /-- floating `std regd, [address]` (R270), the opcode table's `stdf`. -/
  | stdf (rs1 : Reg) (src2 : RegOrImm) (rd : FReg)
  /-- floating `ldd [address], regd` (R271), the opcode table's `lddf`. -/
  | lddf (rs1 : Reg) (src2 : RegOrImm) (rd : FReg)
  /-- `fcmpd regs1, regs2` (R272). -/
  | fcmpd (rs1 rs2 : FReg)
  /- Floating branches (48_fp_branches.md) -/
  /-- `fba{,a} label` (R292). -/
  | fba (annul : Bool) (disp22 : BitVec 22)
  /-- `fbn{,a} label` (R293). -/
  | fbn (annul : Bool) (disp22 : BitVec 22)
  /-- `fbu{,a} label` (R294). -/
  | fbu (annul : Bool) (disp22 : BitVec 22)
  /-- `fbg{,a} label` (R295). -/
  | fbg (annul : Bool) (disp22 : BitVec 22)
  /-- `fbug{,a} label` (R296). -/
  | fbug (annul : Bool) (disp22 : BitVec 22)
  /-- `fbl{,a} label` (R297). -/
  | fbl (annul : Bool) (disp22 : BitVec 22)
  /-- `fbul{,a} label` (R298). -/
  | fbul (annul : Bool) (disp22 : BitVec 22)
  /-- `fblg{,a} label` (R299). -/
  | fblg (annul : Bool) (disp22 : BitVec 22)
  /-- `fbne{,a} label` (R300). -/
  | fbne (annul : Bool) (disp22 : BitVec 22)
  /-- `fbe{,a} label` (R301). -/
  | fbe (annul : Bool) (disp22 : BitVec 22)
  /-- `fbue{,a} label` (R302). -/
  | fbue (annul : Bool) (disp22 : BitVec 22)
  /-- `fbge{,a} label` (R303). -/
  | fbge (annul : Bool) (disp22 : BitVec 22)
  /-- `fbuge{,a} label` (R304). -/
  | fbuge (annul : Bool) (disp22 : BitVec 22)
  /-- `fble{,a} label` (R305). -/
  | fble (annul : Bool) (disp22 : BitVec 22)
  /-- `fbule{,a} label` (R306). -/
  | fbule (annul : Bool) (disp22 : BitVec 22)
  /-- `fbo{,a} label` (R307). -/
  | fbo (annul : Bool) (disp22 : BitVec 22)
  deriving DecidableEq, Repr

end Sys2Proof
end

