-- ==== Sys2Proof/WellFormed.lean ====
section
/-! DEFINITION. Which instructions the decoder can give (spec 30_encoding.md R101). Every field has its encoded width by
its type, so one check is left: the word of `sethi 0, %g0` is named `nop` (43_miscellaneous.md R171). -/

namespace Sys2Proof

/-- "`nop` is decoded before `sethi`" (R101): `sethi` with `rd = 0` and `imm22 = 0` is written `nop`. An odd register in a
doubleword form is well formed: such a word decodes, and executing it raises a trap (R236, R260). -/
abbrev Instr.WellFormed (i : Instr) : Prop := i ≠ .sethi 0 0

end Sys2Proof
end

