-- ==== Sys2Proof/Decode.lean ====
section
/-! DEFINITION. The decoder (spec 30_encoding.md R80 to R101), total on any word, and after it the encoder written from
the same tables. A word the decoder gives no instruction for is rejected by name. -/

namespace Sys2Proof

/-! ## Fields (R81 to R85) -/

/-- `op`: format selector (R81): bits 31:30. -/
def fieldOp (w : Word) : BitVec 2 := w.extractLsb' 30 2

/-- `disp30` of `call` (R82): bits 29:0. -/
def fieldDisp30 (w : Word) : BitVec 30 := w.extractLsb' 0 30

/-- `rd` (R84): bits 29:25. -/
def fieldRd (w : Word) : BitVec 5 := w.extractLsb' 25 5

/-- `cond` of a branch (R83): bits 28:25. -/
def fieldCond (w : Word) : BitVec 4 := w.extractLsb' 25 4

/-- `op2`: Format 2 opcode (R83): bits 24:22. -/
def fieldOp2 (w : Word) : BitVec 3 := w.extractLsb' 22 3

/-- `imm22` of `sethi`, `disp22` of a branch (R83): bits 21:0. -/
def fieldImm22 (w : Word) : BitVec 22 := w.extractLsb' 0 22

/-- `op3`: Format 3 opcode (R84): bits 24:19. -/
def fieldOp3 (w : Word) : BitVec 6 := w.extractLsb' 19 6

/-- `rs1` (R84): bits 18:14. -/
def fieldRs1 (w : Word) : BitVec 5 := w.extractLsb' 14 5

/-- bits 12:5: `asi`, unused and zero in every instruction in scope that has it (R84, R97): bits 12:5. -/
def fieldReserved (w : Word) : BitVec 8 := w.extractLsb' 5 8

/-- `simm13` (R84): bits 12:0. -/
def fieldSimm13 (w : Word) : BitVec 13 := w.extractLsb' 0 13

/-- `rs2`, and `shcnt` of an immediate shift (R84, R85): bits 4:0. -/
def fieldRs2 (w : Word) : BitVec 5 := w.extractLsb' 0 5

/-- `opf` of shape 3c (R84): bits 13:5. -/
def fieldOpf (w : Word) : BitVec 9 := w.extractLsb' 5 9

/-- `a`, the annul bit of a branch: bit 29 (R83). -/
def fieldAnnul (w : Word) : Bool := w.getLsbD 29

/-- `i`: bit 13; 1 when the second operand is immediate (R84). -/
def fieldI (w : Word) : Bool := w.getLsbD 13

/-! ## What a word decodes to -/

/-- The outcome of decoding a word (R101). -/
inductive Decoded
  /-- An instruction in scope. -/
  | instr (i : Instr)
  /-- A word Version 8 assigns to no instruction (R98): raises illegal_instruction. -/
  | illegal
  /-- An unassigned `opf` (R98): raises fp_exception with ftt = unimplemented_FPop. -/
  | unimplementedFPop
  /-- An instruction in scope with a nonzero reserved field (R97): refused. -/
  | reservedFieldNonzero
  /-- A SPARC instruction outside the subset (R99): refused by name. -/
  | outOfSubset (name : String)
  deriving DecidableEq, Repr

/-- What an `opf` value stands for (R91). -/
inductive OpfEntry
  /-- Operands `rs1`, `rs2`, `rd`. -/
  | binary (mk : FReg → FReg → FReg → Instr)
  /-- Operands `rs2`, `rd`; `rs1` must be 0. -/
  | unary (mk : FReg → FReg → Instr)
  /-- Operands `rs1`, `rs2`; `rd` must be 0. -/
  | compare (mk : FReg → FReg → Instr)
  | outOfSubset (name : String)
  | unassigned

/-- What an `op3` value stands for (R87, R88). -/
inductive Op3Entry
  /-- An instruction with operands `rs1`, `reg_or_immed`, `rd` (shapes 3a, 3b). -/
  | operand (mk : Reg → RegOrImm → Reg → Instr)
  /-- A shift (R96). -/
  | shift (mk : Reg → ShiftCount → Reg → Instr)
  /-- FPop1 or FPop2, with its `opf` map (shape 3c, R91). -/
  | fpOperate (entry : BitVec 9 → OpfEntry)
  | outOfSubset (name : String)
  | unassigned

/-! ## The opcode maps -/

/-- The `cond` field of an integer branch (R89). -/
def integerBranch (cond : BitVec 4) : Bool → BitVec 22 → Instr :=
  match cond with
  | 0x0#4 => .bn
  | 0x1#4 => .be
  | 0x2#4 => .ble
  | 0x3#4 => .bl
  | 0x4#4 => .bleu
  | 0x5#4 => .bcs
  | 0x6#4 => .bneg
  | 0x7#4 => .bvs
  | 0x8#4 => .ba
  | 0x9#4 => .bne
  | 0xA#4 => .bg
  | 0xB#4 => .bge
  | 0xC#4 => .bgu
  | 0xD#4 => .bcc
  | 0xE#4 => .bpos
  | _ => .bvc -- 0xF

/-- The `cond` field of a floating branch (R90). -/
def floatBranch (cond : BitVec 4) : Bool → BitVec 22 → Instr :=
  match cond with
  | 0x0#4 => .fbn
  | 0x1#4 => .fbne
  | 0x2#4 => .fblg
  | 0x3#4 => .fbul
  | 0x4#4 => .fbl
  | 0x5#4 => .fbug
  | 0x6#4 => .fbg
  | 0x7#4 => .fbu
  | 0x8#4 => .fba
  | 0x9#4 => .fbe
  | 0xA#4 => .fbue
  | 0xB#4 => .fbge
  | 0xC#4 => .fbuge
  | 0xD#4 => .fble
  | 0xE#4 => .fbule
  | _ => .fbo -- 0xF

/-- The `opf` values under `op3 = 0x34` (R91). -/
def fpop1Entry (opf : BitVec 9) : OpfEntry :=
  match opf with
  | 0x001#9 => .outOfSubset "FMOVs"
  | 0x002#9 => .unary .fmovd
  | 0x005#9 => .outOfSubset "FNEGs"
  | 0x006#9 => .unary .fnegd
  | 0x009#9 => .outOfSubset "FABSs"
  | 0x00A#9 => .unary .fabsd
  | 0x029#9 => .outOfSubset "FSQRTs"
  | 0x02A#9 => .outOfSubset "FSQRTd"
  | 0x02B#9 => .outOfSubset "FSQRTq"
  | 0x041#9 => .outOfSubset "FADDs"
  | 0x042#9 => .binary .faddd
  | 0x043#9 => .outOfSubset "FADDq"
  | 0x045#9 => .outOfSubset "FSUBs"
  | 0x046#9 => .binary .fsubd
  | 0x047#9 => .outOfSubset "FSUBq"
  | 0x049#9 => .outOfSubset "FMULs"
  | 0x04A#9 => .binary .fmuld
  | 0x04B#9 => .outOfSubset "FMULq"
  | 0x04D#9 => .outOfSubset "FDIVs"
  | 0x04E#9 => .binary .fdivd
  | 0x04F#9 => .outOfSubset "FDIVq"
  | 0x069#9 => .outOfSubset "FsMULd"
  | 0x06E#9 => .outOfSubset "FdMULq"
  | 0x0C4#9 => .outOfSubset "FiTOs"
  | 0x0C6#9 => .outOfSubset "FdTOs"
  | 0x0C7#9 => .outOfSubset "FqTOs"
  | 0x0C8#9 => .unary .fitod
  | 0x0C9#9 => .outOfSubset "FsTOd"
  | 0x0CB#9 => .outOfSubset "FqTOd"
  | 0x0CC#9 => .outOfSubset "FiTOq"
  | 0x0CD#9 => .outOfSubset "FsTOq"
  | 0x0CE#9 => .outOfSubset "FdTOq"
  | 0x0D1#9 => .outOfSubset "FsTOi"
  | 0x0D2#9 => .unary .fdtoi
  | 0x0D3#9 => .outOfSubset "FqTOi"
  | _ => .unassigned

/-- The `opf` values under `op3 = 0x35` (R91). -/
def fpop2Entry (opf : BitVec 9) : OpfEntry :=
  match opf with
  | 0x051#9 => .outOfSubset "FCMPs"
  | 0x052#9 => .compare .fcmpd
  | 0x053#9 => .outOfSubset "FCMPq"
  | 0x055#9 => .outOfSubset "FCMPEs"
  | 0x056#9 => .outOfSubset "FCMPEd"
  | 0x057#9 => .outOfSubset "FCMPEq"
  | _ => .unassigned

/-- The `op3` values under `op = 2` (R87). -/
def arithmeticEntry (op3 : BitVec 6) : Op3Entry :=
  match op3 with
  | 0x00#6 => .operand .add
  | 0x01#6 => .operand .and
  | 0x02#6 => .operand .or
  | 0x03#6 => .operand .xor
  | 0x04#6 => .operand .sub
  | 0x05#6 => .operand .andn
  | 0x06#6 => .operand .orn
  | 0x07#6 => .operand .xnor
  | 0x08#6 => .outOfSubset "ADDX"
  | 0x0A#6 => .operand .umul
  | 0x0B#6 => .operand .smul
  | 0x0C#6 => .outOfSubset "SUBX"
  | 0x0E#6 => .operand .udiv
  | 0x0F#6 => .operand .sdiv
  | 0x10#6 => .operand .addcc
  | 0x11#6 => .operand .andcc
  | 0x12#6 => .operand .orcc
  | 0x13#6 => .operand .xorcc
  | 0x14#6 => .operand .subcc
  | 0x15#6 => .operand .andncc
  | 0x16#6 => .operand .orncc
  | 0x17#6 => .operand .xnorcc
  | 0x18#6 => .outOfSubset "ADDXcc"
  | 0x1A#6 => .operand .umulcc
  | 0x1B#6 => .operand .smulcc
  | 0x1C#6 => .outOfSubset "SUBXcc"
  | 0x1E#6 => .operand .udivcc
  | 0x1F#6 => .operand .sdivcc
  | 0x20#6 => .outOfSubset "TADDcc"
  | 0x21#6 => .outOfSubset "TSUBcc"
  | 0x22#6 => .outOfSubset "TADDccTV"
  | 0x23#6 => .outOfSubset "TSUBccTV"
  | 0x24#6 => .outOfSubset "MULScc"
  | 0x25#6 => .shift .sll
  | 0x26#6 => .shift .srl
  | 0x27#6 => .shift .sra
  | 0x28#6 => .outOfSubset "RDY / RDASR / STBAR"
  | 0x29#6 => .outOfSubset "RDPSR"
  | 0x2A#6 => .outOfSubset "RDWIM"
  | 0x2B#6 => .outOfSubset "RDTBR"
  | 0x30#6 => .outOfSubset "WRY / WRASR"
  | 0x31#6 => .outOfSubset "WRPSR"
  | 0x32#6 => .outOfSubset "WRWIM"
  | 0x33#6 => .outOfSubset "WRTBR"
  | 0x34#6 => .fpOperate fpop1Entry
  | 0x35#6 => .fpOperate fpop2Entry
  | 0x36#6 => .outOfSubset "CPop1"
  | 0x37#6 => .outOfSubset "CPop2"
  | 0x38#6 => .operand .jmpl
  | 0x39#6 => .outOfSubset "RETT"
  | 0x3A#6 => .outOfSubset "Ticc"
  | 0x3B#6 => .outOfSubset "FLUSH"
  | 0x3C#6 => .operand .save
  | 0x3D#6 => .operand .restore
  | _ => .unassigned

/-- The `op3` values under `op = 3` (R88). -/
def memoryEntry (op3 : BitVec 6) : Op3Entry :=
  match op3 with
  | 0x00#6 => .operand .ld
  | 0x01#6 => .operand .ldub
  | 0x02#6 => .operand .lduh
  | 0x03#6 => .operand .ldd
  | 0x04#6 => .operand .st
  | 0x05#6 => .operand .stb
  | 0x06#6 => .operand .sth
  | 0x07#6 => .operand .std
  | 0x09#6 => .operand .ldsb
  | 0x0A#6 => .operand .ldsh
  | 0x0D#6 => .outOfSubset "LDSTUB"
  | 0x0F#6 => .outOfSubset "SWAP"
  | 0x10#6 => .outOfSubset "LDA"
  | 0x11#6 => .outOfSubset "LDUBA"
  | 0x12#6 => .outOfSubset "LDUHA"
  | 0x13#6 => .outOfSubset "LDDA"
  | 0x14#6 => .outOfSubset "STA"
  | 0x15#6 => .outOfSubset "STBA"
  | 0x16#6 => .outOfSubset "STHA"
  | 0x17#6 => .outOfSubset "STDA"
  | 0x19#6 => .outOfSubset "LDSBA"
  | 0x1A#6 => .outOfSubset "LDSHA"
  | 0x1D#6 => .outOfSubset "LDSTUBA"
  | 0x1F#6 => .outOfSubset "SWAPA"
  | 0x20#6 => .outOfSubset "LDF"
  | 0x21#6 => .outOfSubset "LDFSR"
  | 0x23#6 => .operand .lddf
  | 0x24#6 => .outOfSubset "STF"
  | 0x25#6 => .outOfSubset "STFSR"
  | 0x26#6 => .outOfSubset "STDFQ"
  | 0x27#6 => .operand .stdf
  | 0x30#6 => .outOfSubset "LDC"
  | 0x31#6 => .outOfSubset "LDCSR"
  | 0x33#6 => .outOfSubset "LDDC"
  | 0x34#6 => .outOfSubset "STC"
  | 0x35#6 => .outOfSubset "STCSR"
  | 0x36#6 => .outOfSubset "STDCQ"
  | 0x37#6 => .outOfSubset "STDC"
  | _ => .unassigned

/-! ## The decode procedure (R101) -/

/-- Format 2 (`op = 0`): R83, R86. -/
def decodeFormat2 (w : Word) : Decoded :=
  match fieldOp2 w with
  | 0b100#3 => if fieldRd w = 0 ∧ fieldImm22 w = 0 then .instr .nop else .instr (.sethi (fieldImm22 w) (fieldRd w))
  | 0b010#3 => .instr (integerBranch (fieldCond w) (fieldAnnul w) (fieldImm22 w))
  | 0b110#3 => .instr (floatBranch (fieldCond w) (fieldAnnul w) (fieldImm22 w))
  | 0b111#3 => .outOfSubset "CBccc"
  | _ => .illegal

/-- Shapes 3a and 3b (R84): with `i = 0`, bits 12:5 must be zero (R97). -/
def decodeOperand (mk : Reg → RegOrImm → Reg → Instr) (w : Word) : Decoded :=
  if fieldI w then .instr (mk (fieldRs1 w) (.imm (fieldSimm13 w)) (fieldRd w))
  else if fieldReserved w = 0 then .instr (mk (fieldRs1 w) (.reg (fieldRs2 w)) (fieldRd w))
  else .reservedFieldNonzero

/-- A shift (R96): bits 12:5 must be zero in both forms (R97). -/
def decodeShift (mk : Reg → ShiftCount → Reg → Instr) (w : Word) : Decoded :=
  if fieldReserved w = 0 then
    .instr (mk (fieldRs1 w) (if fieldI w then .imm (fieldRs2 w) else .reg (fieldRs2 w)) (fieldRd w))
  else .reservedFieldNonzero

/-- Shape 3c (R84, R91), with its reserved fields (R97). -/
def decodeFp (e : OpfEntry) (w : Word) : Decoded :=
  match e with
  | .binary mk => .instr (mk (fieldRs1 w) (fieldRs2 w) (fieldRd w))
  | .unary mk => if fieldRs1 w = 0 then .instr (mk (fieldRs2 w) (fieldRd w)) else .reservedFieldNonzero
  | .compare mk => if fieldRd w = 0 then .instr (mk (fieldRs1 w) (fieldRs2 w)) else .reservedFieldNonzero
  | .outOfSubset name => .outOfSubset name
  | .unassigned => .unimplementedFPop

/-- Format 3: the entry its `op3` selects. Reserved fields are checked for an instruction in scope only ("every shape-3a
instruction in scope", R97). -/
def decodeFormat3 (e : Op3Entry) (w : Word) : Decoded :=
  match e with
  | .operand mk => decodeOperand mk w
  | .shift mk => decodeShift mk w
  | .fpOperate entry => decodeFp (entry (fieldOpf w)) w
  | .outOfSubset name => .outOfSubset name
  | .unassigned => .illegal

/-- R101: what the word `w` decodes to. -/
def decode (w : Word) : Decoded :=
  match fieldOp w with
  | 0b00#2 => decodeFormat2 w
  | 0b01#2 => .instr (.call (fieldDisp30 w))
  | 0b10#2 => decodeFormat3 (arithmeticEntry (fieldOp3 w)) w
  | _ => decodeFormat3 (memoryEntry (fieldOp3 w)) w

/-- The instruction word whose bytes, from the lowest address up, are `b0 b1 b2 b3`: most significant byte first (R55, R80). -/
def wordOfBytes (b0 b1 b2 b3 : Byte) : Word := (b0 ++ b1) ++ (b2 ++ b3)

/-- What four bytes of memory decode to, the first at the lowest address (R55). -/
def decodeBytes (b0 b1 b2 b3 : Byte) : Decoded := decode (wordOfBytes b0 b1 b2 b3)

/-- The instruction the decoder reads from the instruction whose `nbits` bits are `w` (bit 0 least significant), laid out
in memory most significant byte first (R80); none where the decoder rejects it. -/
def decodeTableWord (nbits w : Nat) : Option Instr :=
  let v : Word := BitVec.ofNat 32 (w % 2 ^ nbits)
  match decodeBytes (v.extractLsb' 24 8) (v.extractLsb' 16 8) (v.extractLsb' 8 8) (v.extractLsb' 0 8) with
  | .instr i => some i
  | .illegal | .unimplementedFPop | .reservedFieldNonzero | .outOfSubset _ => none

/-! ## The encoder -/

/-- A field placed with its least significant bit at bit `lo` of a word. -/
def placed {n : Nat} (v : BitVec n) (lo : Nat) : Word := v.setWidth 32 <<< lo

/-- Format 1 (R82). -/
def wordCall (disp30 : BitVec 30) : Word := placed 0b01#2 30 ||| placed disp30 0

/-- Format 2, shape 2a (R83). -/
def wordSethi (imm22 : BitVec 22) (rd : Reg) : Word :=
  placed 0b00#2 30 ||| placed rd 25 ||| placed 0b100#3 22 ||| placed imm22 0

/-- Format 2, shape 2b (R83). -/
def wordBranch (op2 : BitVec 3) (cond : BitVec 4) (annul : Bool) (disp22 : BitVec 22) : Word :=
  placed 0b00#2 30 ||| placed (BitVec.ofBool annul) 29 ||| placed cond 25 ||| placed op2 22 ||| placed disp22 0

/-- Format 3, shapes 3a and 3b (R84). -/
def wordOperand (op : BitVec 2) (op3 : BitVec 6) (rs1 : Reg) (src2 : RegOrImm) (rd : Reg) : Word :=
  placed op 30 ||| placed rd 25 ||| placed op3 19 ||| placed rs1 14 |||
    (match src2 with
    | .reg rs2 => placed 0#1 13 ||| placed rs2 0
    | .imm simm13 => placed 1#1 13 ||| placed simm13 0)

/-- A shift: Format 3 with bits 12:5 zero in both forms (R84, R96). -/
def wordShift (op3 : BitVec 6) (rs1 : Reg) (count : ShiftCount) (rd : Reg) : Word :=
  placed 0b10#2 30 ||| placed rd 25 ||| placed op3 19 ||| placed rs1 14 |||
    (match count with
    | .reg rs2 => placed 0#1 13 ||| placed rs2 0
    | .imm shcnt => placed 1#1 13 ||| placed shcnt 0)

/-- Format 3, shape 3c (R84). -/
def wordFp (op3 : BitVec 6) (opf : BitVec 9) (rs1 rs2 rd : FReg) : Word :=
  placed 0b10#2 30 ||| placed rd 25 ||| placed op3 19 ||| placed rs1 14 ||| placed opf 5 ||| placed rs2 0

/-- The word of an instruction (R81 to R91). -/
def encode (i : Instr) : Word :=
  match i with
  | .add rs1 src2 rd => wordOperand 2 0x00#6 rs1 src2 rd
  | .addcc rs1 src2 rd => wordOperand 2 0x10#6 rs1 src2 rd
  | .sub rs1 src2 rd => wordOperand 2 0x04#6 rs1 src2 rd
  | .subcc rs1 src2 rd => wordOperand 2 0x14#6 rs1 src2 rd
  | .umul rs1 src2 rd => wordOperand 2 0x0A#6 rs1 src2 rd
  | .umulcc rs1 src2 rd => wordOperand 2 0x1A#6 rs1 src2 rd
  | .smul rs1 src2 rd => wordOperand 2 0x0B#6 rs1 src2 rd
  | .smulcc rs1 src2 rd => wordOperand 2 0x1B#6 rs1 src2 rd
  | .udiv rs1 src2 rd => wordOperand 2 0x0E#6 rs1 src2 rd
  | .udivcc rs1 src2 rd => wordOperand 2 0x1E#6 rs1 src2 rd
  | .sdiv rs1 src2 rd => wordOperand 2 0x0F#6 rs1 src2 rd
  | .sdivcc rs1 src2 rd => wordOperand 2 0x1F#6 rs1 src2 rd
  | .and rs1 src2 rd => wordOperand 2 0x01#6 rs1 src2 rd
  | .andcc rs1 src2 rd => wordOperand 2 0x11#6 rs1 src2 rd
  | .andn rs1 src2 rd => wordOperand 2 0x05#6 rs1 src2 rd
  | .andncc rs1 src2 rd => wordOperand 2 0x15#6 rs1 src2 rd
  | .or rs1 src2 rd => wordOperand 2 0x02#6 rs1 src2 rd
  | .orcc rs1 src2 rd => wordOperand 2 0x12#6 rs1 src2 rd
  | .orn rs1 src2 rd => wordOperand 2 0x06#6 rs1 src2 rd
  | .orncc rs1 src2 rd => wordOperand 2 0x16#6 rs1 src2 rd
  | .xor rs1 src2 rd => wordOperand 2 0x03#6 rs1 src2 rd
  | .xorcc rs1 src2 rd => wordOperand 2 0x13#6 rs1 src2 rd
  | .xnor rs1 src2 rd => wordOperand 2 0x07#6 rs1 src2 rd
  | .xnorcc rs1 src2 rd => wordOperand 2 0x17#6 rs1 src2 rd
  | .sll rs1 count rd => wordShift 0x25#6 rs1 count rd
  | .srl rs1 count rd => wordShift 0x26#6 rs1 count rd
  | .sra rs1 count rd => wordShift 0x27#6 rs1 count rd
  | .nop => wordSethi 0 0
  | .sethi imm22 rd => wordSethi imm22 rd
  | .save rs1 src2 rd => wordOperand 2 0x3C#6 rs1 src2 rd
  | .restore rs1 src2 rd => wordOperand 2 0x3D#6 rs1 src2 rd
  | .call disp30 => wordCall disp30
  | .jmpl rs1 src2 rd => wordOperand 2 0x38#6 rs1 src2 rd
  | .ba annul disp22 => wordBranch 2 0x8#4 annul disp22
  | .bn annul disp22 => wordBranch 2 0x0#4 annul disp22
  | .bne annul disp22 => wordBranch 2 0x9#4 annul disp22
  | .be annul disp22 => wordBranch 2 0x1#4 annul disp22
  | .bg annul disp22 => wordBranch 2 0xA#4 annul disp22
  | .ble annul disp22 => wordBranch 2 0x2#4 annul disp22
  | .bge annul disp22 => wordBranch 2 0xB#4 annul disp22
  | .bl annul disp22 => wordBranch 2 0x3#4 annul disp22
  | .bgu annul disp22 => wordBranch 2 0xC#4 annul disp22
  | .bleu annul disp22 => wordBranch 2 0x4#4 annul disp22
  | .bcc annul disp22 => wordBranch 2 0xD#4 annul disp22
  | .bcs annul disp22 => wordBranch 2 0x5#4 annul disp22
  | .bpos annul disp22 => wordBranch 2 0xE#4 annul disp22
  | .bneg annul disp22 => wordBranch 2 0x6#4 annul disp22
  | .bvc annul disp22 => wordBranch 2 0xF#4 annul disp22
  | .bvs annul disp22 => wordBranch 2 0x7#4 annul disp22
  | .ldsb rs1 src2 rd => wordOperand 3 0x09#6 rs1 src2 rd
  | .ldsh rs1 src2 rd => wordOperand 3 0x0A#6 rs1 src2 rd
  | .ldub rs1 src2 rd => wordOperand 3 0x01#6 rs1 src2 rd
  | .lduh rs1 src2 rd => wordOperand 3 0x02#6 rs1 src2 rd
  | .ld rs1 src2 rd => wordOperand 3 0x00#6 rs1 src2 rd
  | .ldd rs1 src2 rd => wordOperand 3 0x03#6 rs1 src2 rd
  | .stb rs1 src2 rd => wordOperand 3 0x05#6 rs1 src2 rd
  | .sth rs1 src2 rd => wordOperand 3 0x06#6 rs1 src2 rd
  | .st rs1 src2 rd => wordOperand 3 0x04#6 rs1 src2 rd
  | .std rs1 src2 rd => wordOperand 3 0x07#6 rs1 src2 rd
  | .faddd rs1 rs2 rd => wordFp 0x34#6 0x042#9 rs1 rs2 rd
  | .fsubd rs1 rs2 rd => wordFp 0x34#6 0x046#9 rs1 rs2 rd
  | .fmuld rs1 rs2 rd => wordFp 0x34#6 0x04A#9 rs1 rs2 rd
  | .fdivd rs1 rs2 rd => wordFp 0x34#6 0x04E#9 rs1 rs2 rd
  | .fmovd rs2 rd => wordFp 0x34#6 0x002#9 0 rs2 rd
  | .fnegd rs2 rd => wordFp 0x34#6 0x006#9 0 rs2 rd
  | .fabsd rs2 rd => wordFp 0x34#6 0x00A#9 0 rs2 rd
  | .fitod rs2 rd => wordFp 0x34#6 0x0C8#9 0 rs2 rd
  | .fdtoi rs2 rd => wordFp 0x34#6 0x0D2#9 0 rs2 rd
  | .stdf rs1 src2 rd => wordOperand 3 0x27#6 rs1 src2 rd
  | .lddf rs1 src2 rd => wordOperand 3 0x23#6 rs1 src2 rd
  | .fcmpd rs1 rs2 => wordFp 0x35#6 0x052#9 rs1 rs2 0
  | .fba annul disp22 => wordBranch 6 0x8#4 annul disp22
  | .fbn annul disp22 => wordBranch 6 0x0#4 annul disp22
  | .fbu annul disp22 => wordBranch 6 0x7#4 annul disp22
  | .fbg annul disp22 => wordBranch 6 0x6#4 annul disp22
  | .fbug annul disp22 => wordBranch 6 0x5#4 annul disp22
  | .fbl annul disp22 => wordBranch 6 0x4#4 annul disp22
  | .fbul annul disp22 => wordBranch 6 0x3#4 annul disp22
  | .fblg annul disp22 => wordBranch 6 0x2#4 annul disp22
  | .fbne annul disp22 => wordBranch 6 0x1#4 annul disp22
  | .fbe annul disp22 => wordBranch 6 0x9#4 annul disp22
  | .fbue annul disp22 => wordBranch 6 0xA#4 annul disp22
  | .fbge annul disp22 => wordBranch 6 0xB#4 annul disp22
  | .fbuge annul disp22 => wordBranch 6 0xC#4 annul disp22
  | .fble annul disp22 => wordBranch 6 0xD#4 annul disp22
  | .fbule annul disp22 => wordBranch 6 0xE#4 annul disp22
  | .fbo annul disp22 => wordBranch 6 0xF#4 annul disp22

end Sys2Proof
end

