-- ==== Sys2Proof/Config.lean ====
section
/-! DEFINITION. What an implementation or its environment fixes (spec 00_scope.md R6), and the values the spec leaves
open. The open PARAMETERS of R6 are plain data (`Params`, `Launch`), so that a claim can quantify over them; the fixed
ones are constants; the open VALUES (`GenNaN`, `FdtoiInvalid` and the others below) are constants with no body, so that nothing
can be proved of them beyond what the spec says. -/

namespace Sys2Proof

/-- NWINDOWS, "open, 2 to 32" (R6, R23). -/
abbrev WindowCount := {n : Nat // 2 ≤ n ∧ n ≤ 32}

/-- A run of byte addresses `base`, …, `base + size - 1`. -/
structure Region where
  base : Nat
  size : Nat
  deriving DecidableEq, Repr

/-- The parameters of R6 that stay fixed through a run. The predicates `Mapped` and `Text` are given by lists of regions:
every predicate on the 2^32 addresses has such a list. (DESIGN CHOICE, safe: log 5.) -/
structure Params where
  /-- NWINDOWS. -/
  nwindows : WindowCount
  /-- HALT_PC. -/
  haltPc : Word
  /-- The addresses where `Mapped` holds. -/
  mapped : List Region
  /-- The addresses where `Text` holds. -/
  text : List Region
  deriving DecidableEq, Repr

/-- The four operations whose NaN result R273 leaves to the implementation. -/
inductive FpOp
  | add | sub | mul | div
  deriving DecidableEq, Repr

namespace Config

/-! Parameters of R6 that the spec fixes. -/

/-- PSR_EF, "fixed 1" (R6, D11). -/
def psrEf : Bool := true

/-- PSR.S in the launch state: user mode (R44, D11). -/
def psrS : Bool := false

/-- FSR_NS, "fixed 0" (R6, D12). -/
def fsrNs : Bool := false

/-- NWINDOWS, "default 8" (R6, D8). -/
def nwindows : WindowCount := ⟨8, by decide⟩

/-- CWP_INIT, "default 0" (R6, D9). -/
def cwpInit : BitVec 5 := 0

/-- WIM_INIT, "default `1 << ((CWP_INIT + 1) mod NWINDOWS)`" (R6, D9). -/
def wimInit (nw : WindowCount) (cwp : BitVec 5) : Word := 1#32 <<< ((cwp.toNat + 1) % nw.val)

/-- ENTRY_PC, open in R6: the address the spec's own programs start at (95_test_vectors.md section 14).
DESIGN CHOICE, unsafe for claims about the run from reset: log 2. -/
def entryPc : Word := 0x00001000

/-- HALT_PC, open in R6: as program P6 of 95_test_vectors.md has it. DESIGN CHOICE, unsafe for claims about the run from
reset: log 2. -/
def haltPc : Word := 0x00002000

/-- `%sp` at launch, "a multiple of 8" (R361): as program P4 of 95_test_vectors.md has it. DESIGN CHOICE, unsafe for claims
about the run from reset: log 2. -/
def launchSp : Word := 0x7FFFFF00

/-! Values the spec leaves open. None has a body: a claim holds for every value. -/

/-- The bits of `GenNaN` that R273 leaves open: bit 51 here is the sign and bits 50:0 are fraction bits 50:0. The exponent
and fraction bit 51 are fixed by R273 ("always returns a quiet NaN") in `Machine.genNaN`. Free value, safe: log 7. -/
opaque genNaNBits : FpOp → Dword → Dword → BitVec 52

/-- `FdtoiInvalid(x)`, "any 32-bit value" (R6, R269). Free value, safe: log 8. -/
opaque fdtoiInvalid : Dword → Word

/-- Whether `fdtoi` of a finite double that is no integer and does not fit raises inexact beside invalid: "nvc in the first case, nxc when
`x` is not an integer" (R269) reads either way. Free value, safe: log 8. -/
opaque fdtoiInvalidInexact : Dword → Bool

/-- `V` after `sdivcc` of the 64-bit dividend by the divisor when the exact quotient lies strictly between -2^31 - 1 and
-2^31 (93_implementation_defined.md U7: "treat as any value"). Free value, safe: log 9. -/
opaque sdivBoundaryOverflow : Dword → Word → Bool

/-- Whether tininess is detected before rounding (93_implementation_defined.md U27: left open). Seen only in `ufc`, `ufa`.
Free constant, safe: log 10. -/
opaque tininessBeforeRounding : Bool

/-- The result of an arithmetic FPop while FSR.NS = 1, "non-standard mode", which the spec names (R38) and does not describe.
Free value, safe: log 15. -/
opaque nonStandardResult : FpOp → Dword → Dword → Dword

/-- The IEEE exceptions (bits nv of uf dz nx) such an operation raises. Free value, safe: log 15. -/
opaque nonStandardExceptions : FpOp → Dword → Dword → BitVec 5

end Config

/-- Bytes that the environment puts into memory before the run (R362(1)): the one at `base`, the next at `base + 1`, and so on. An
instruction word is four of them, the most significant first (R52, R55). -/
structure Segment where
  base : Word
  bytes : List Byte
  deriving DecidableEq, Repr

/-- The addresses of a segment. -/
def Segment.region (g : Segment) : Region := ⟨g.base.toNat, g.bytes.length⟩

/-- No address in both segments. -/
abbrev Segment.apart (g h : Segment) : Prop :=
  g.base.toNat + g.bytes.length ≤ h.base.toNat ∨ h.base.toNat + h.bytes.length ≤ g.base.toNat

/-- `a` is an address of the segment. -/
def Segment.holds (g : Segment) (a : Word) : Prop := ∃ k < g.bytes.length, a = g.base + BitVec.ofNat 32 k

end Sys2Proof
end

