-- ==== Sys2Proof/Machine/Values.lean ====
section
/-! DEFINITION. The small value types of the state (spec 10_state.md R31 to R40) and how each is written in its register. -/

namespace Sys2Proof.Machine

/-- The condition codes N, Z, V, C (R31). -/
structure Icc where
  n : Bool
  z : Bool
  v : Bool
  c : Bool
  deriving DecidableEq, Repr

/-- PSR bits 23:20 (R34). -/
def Icc.toBits (i : Icc) : BitVec 4 :=
  BitVec.ofBool i.n ++ BitVec.ofBool i.z ++ BitVec.ofBool i.v ++ BitVec.ofBool i.c

/-- The floating condition codes: the relation the last `fcmpd` found (R39). -/
inductive Fcc
  | equal | less | greater | unordered
  deriving DecidableEq, Repr

/-- FSR bits 11:10: 0 equal, 1 less, 2 greater, 3 unordered (R39). -/
def Fcc.toBits : Fcc → BitVec 2
  | .equal => 0
  | .less => 1
  | .greater => 2
  | .unordered => 3

/-- `FSR.RD`, the rounding direction (R38). -/
inductive RoundDir
  | nearestEven | towardZero | up | down
  deriving DecidableEq, Repr

/-- FSR bits 31:30: 0 nearest, 1 toward zero, 2 toward +infinity, 3 toward -infinity (R38). -/
def RoundDir.toBits : RoundDir → BitVec 2
  | .nearestEven => 0
  | .towardZero => 1
  | .up => 2
  | .down => 3

/-- A set of IEEE exceptions: invalid, overflow, underflow, division by zero, inexact. The type of `TEM`, `aexc`, `cexc`
(R38). -/
structure IeeeFlags where
  nv : Bool
  of : Bool
  uf : Bool
  dz : Bool
  nx : Bool
  deriving DecidableEq, Repr

/-- The empty set. -/
def IeeeFlags.none : IeeeFlags := ⟨false, false, false, false, false⟩

/-- The five bits, `nv` the most significant (R38). -/
def IeeeFlags.toBits (e : IeeeFlags) : BitVec 5 :=
  BitVec.ofBool e.nv ++ BitVec.ofBool e.of ++ BitVec.ofBool e.uf ++ BitVec.ofBool e.dz ++ BitVec.ofBool e.nx

/-- The set with these five bits. -/
def IeeeFlags.ofBits (b : BitVec 5) : IeeeFlags :=
  ⟨b.getLsbD 4, b.getLsbD 3, b.getLsbD 2, b.getLsbD 1, b.getLsbD 0⟩

/-- Union (R40: "ORs the same set into `aexc`"). -/
def IeeeFlags.union (a b : IeeeFlags) : IeeeFlags :=
  ⟨a.nv || b.nv, a.of || b.of, a.uf || b.uf, a.dz || b.dz, a.nx || b.nx⟩

/-- Whether the two sets meet: an exception raised while its `TEM` bit is set (R38). -/
def IeeeFlags.meets (a b : IeeeFlags) : Bool :=
  (a.nv && b.nv) || (a.of && b.of) || (a.uf && b.uf) || (a.dz && b.dz) || (a.nx && b.nx)

/-- `FSR.ftt`, the floating-point trap type (R38). -/
inductive Ftt
  | none | ieee754Exception | unfinishedFPop | unimplementedFPop | sequenceError | hardwareError | invalidFpRegister
  | reserved7
  deriving DecidableEq, Repr

/-- FSR bits 16:14 (R38). -/
def Ftt.toBits : Ftt → BitVec 3
  | .none => 0
  | .ieee754Exception => 1
  | .unfinishedFPop => 2
  | .unimplementedFPop => 3
  | .sequenceError => 4
  | .hardwareError => 5
  | .invalidFpRegister => 6
  | .reserved7 => 7

/-- The PSR fields other than `icc` and `CWP` (R34). No instruction in scope writes any of them. -/
structure Psr where
  impl : BitVec 4
  ver : BitVec 4
  /-- Coprocessor enable. -/
  ec : Bool
  /-- Floating-point enable. -/
  ef : Bool
  /-- Processor interrupt level. -/
  pil : BitVec 4
  /-- Supervisor mode. -/
  s : Bool
  /-- Previous supervisor. -/
  ps : Bool
  /-- Enable traps. -/
  et : Bool
  deriving DecidableEq, Repr

/-- The FSR fields that no instruction in scope writes (R38). -/
structure Fsr where
  rd : RoundDir
  tem : IeeeFlags
  /-- Non-standard mode. -/
  ns : Bool
  ver : BitVec 3
  deriving DecidableEq, Repr

end Sys2Proof.Machine
end

