-- ==== Sys2Proof/Machine/Windows.lean ====
section
/-! DEFINITION. Register windows (spec 10_state.md R22, R23): which storage cell a register number names in a window. Two
names of one cell (an in of a window, an out of the next) have one home. -/

namespace Sys2Proof.Machine

/-- The storage behind an integer register number (R21, R23). -/
inductive RegCell
  /-- Register 0: reads 0, writes are discarded. -/
  | zero
  /-- `G[i + 1]`. -/
  | global (i : Fin 7)
  /-- `W[k]`. -/
  | windowed (k : Fin 512)
  deriving DecidableEq, Repr

/-- The index `(16*w + (n - 8)) mod (16*NWINDOWS)` of R23, for `8 ≤ n`. -/
def windowSlot (nw : WindowCount) (w n : Nat) : Fin 512 :=
  ⟨(16 * w + (n - 8)) % (16 * nw.val), by
    have h := Nat.mod_lt (16 * w + (n - 8)) (show 16 * nw.val > 0 by have := nw.property; omega)
    have := nw.property
    omega⟩

/-- The windowed registers with one of them set. -/
def setSlot (cells : Vector Word 512) (k : Fin 512) (v : Word) : Vector Word 512 := cells.set k.val v k.isLt

/-- The windowed registers with the outs of window `w`, `r_w[8]` to `r_w[15]`, set to these (R23). -/
def setOuts (nw : WindowCount) (w : Nat) (outs : Vector Word 8) (cells : Vector Word 512) : Vector Word 512 :=
  (List.finRange 8).foldl (fun c (k : Fin 8) => setSlot c (windowSlot nw w (8 + k.val)) (outs.get k)) cells

/-- The cell that register `n` names in window `w` (R21, R23). -/
def regCell (nw : WindowCount) (w : BitVec 5) (n : Reg) : RegCell :=
  if n = 0 then .zero
  else if h : n.toNat < 8 then .global ⟨n.toNat - 1, by omega⟩
  else .windowed (windowSlot nw w.toNat n.toNat)

/-- `(CWP - 1) mod NWINDOWS`: the window `save` enters (R24, R184). -/
def windowBelow (nw : WindowCount) (w : BitVec 5) : BitVec 5 := BitVec.ofNat 5 ((w.toNat + nw.val - 1) % nw.val)

/-- `(CWP + 1) mod NWINDOWS`: the window `restore` enters (R24, R184). -/
def windowAbove (nw : WindowCount) (w : BitVec 5) : BitVec 5 := BitVec.ofNat 5 ((w.toNat + 1) % nw.val)

end Sys2Proof.Machine
end

