-- ==== Sys2Proof/Machine/Launch.lean ====
section
/-! DEFINITION. What the environment supplies for a launch (spec 00_scope.md R6, 10_state.md R44, 70_reset_and_hazards.md R361, R362). -/

namespace Sys2Proof

open Machine (Icc Fcc)

/-- What the environment chooses for a launch (R6, R44, R361, R362). A value the spec calls unspecified is one of its choices too, so
that a claim over every launch holds for all of them. -/
structure Launch where
  /-- The parameters of R6. `Mapped` holds besides on every segment below, and `Text` on the program. -/
  params : Params
  /-- "The program's text present at its addresses" (R362(1)). -/
  program : List Segment
  /-- The bytes of the data areas that the launch gives a value (R362(1)). -/
  data : List Segment
  entryPc : Word
  cwpInit : BitVec 5
  wimInit : Word
  /-- `r[8]` to `r[13]` (`%o0` to `%o5`) of window CWP_INIT: the arguments, if a claim names any (R361). -/
  args : Vector Word 6
  /-- `%sp` of window CWP_INIT (R361). -/
  sp : Word
  /-- `G[1..7]`, unspecified (R44). -/
  globals : Vector Word 7
  /-- The windowed registers but for the outs of window CWP_INIT, unspecified (R44). -/
  windows : Vector Word 512
  /-- The condition codes, unspecified (R44). -/
  icc : Icc
  /-- `Y`, unspecified (R44). -/
  y : Word
  /-- `f[0..31]`, unspecified (R44). -/
  f : Vector Word 32
  /-- `fcc`, unspecified (R44). -/
  fcc : Fcc
  deriving DecidableEq, Repr

/-- The parameters a launch runs with: "`Text` and `Mapped` describing them" (R362(1)), that is `Text` holds on the program and
`Mapped` on the program and the data, besides where the environment says so. -/
def Launch.runParams (l : Launch) : Params :=
  { l.params with
    mapped := (l.program ++ l.data).map Segment.region ++ l.params.mapped
    text := l.program.map Segment.region ++ l.params.text }

/-- The outs of window CWP_INIT, `r[8]` to `r[15]`: the arguments, `%sp`, and the return linkage `(HALT_PC - 8) mod 2^32` (R361). -/
def Launch.outs (l : Launch) : Vector Word 8 := l.args ++ #v[l.sp, l.params.haltPc - 8]

/-- The launch that `State.reset` takes: the spec's defaults where R6 gives one, and the choices of log 2 elsewhere: every
address mapped, no address text, no program and no data (log 21). What R44 leaves unspecified is zero, the arguments among it (log 3).
DESIGN CHOICE, unsafe for claims about the run from reset: log 2, 3. -/
def Launch.default : Launch where
  params :=
    { nwindows := Config.nwindows
      haltPc := Config.haltPc
      mapped := [⟨0, 2 ^ 32⟩]
      text := [] }
  program := []
  data := []
  entryPc := Config.entryPc
  cwpInit := Config.cwpInit
  wimInit := Config.wimInit Config.nwindows Config.cwpInit
  args := Vector.replicate 6 0
  sp := Config.launchSp
  globals := Vector.replicate 7 0
  windows := Vector.replicate 512 0
  icc := ⟨false, false, false, false⟩
  y := 0
  f := Vector.replicate 32 0
  fcc := .equal

end Sys2Proof
end

