-- ==== Sys2Proof/Machine/Memory.lean ====
section
/-! DEFINITION. Memory: 2^32 bytes (spec 10_state.md R42, 20_memory.md R50) held as a list of (address, byte) pairs in one
canonical form, and the big-endian reads and writes of 1, 2, 4 and 8 bytes (R52). Alignment, mapping and text are checked
in Machine/Ops.lean before these are used. -/

namespace Sys2Proof.Machine

/-- The bytes of memory that differ from what an unlisted address reads as. -/
structure Memory where
  cells : List Host.Cell
  deriving DecidableEq, Repr

/-- What an address that is not listed reads as. The spec leaves the contents of memory at launch open (R44,
93_implementation_defined.md U2). DESIGN CHOICE, unsafe for claims about the run from reset: log 4. -/
def unlistedByte : Byte := 0

/-- The canonical form: addresses strictly rising and below 2^32, and no entry that says what an unlisted address says. -/
abbrev Memory.wf (m : Memory) : Prop :=
  m.cells.Pairwise (fun c d => c.1 < d.1) ∧ ∀ c ∈ m.cells, c.2 ≠ unlistedByte ∧ c.1 < 2 ^ 32

/-- Memory with nothing listed. -/
def Memory.empty : Memory := ⟨[]⟩

/-- The byte a list of cells gives an address. -/
def lookupCell : List Host.Cell → Nat → Byte
  | [], _ => unlistedByte
  | (a, b) :: rest, x => if x = a then b else lookupCell rest x

/-- The cells with the byte at `x` set to `v`, in canonical form again. -/
def storeCell (x : Nat) (v : Byte) : List Host.Cell → List Host.Cell
  | [] => if v = unlistedByte then [] else [(x, v)]
  | (a, b) :: rest =>
    if x < a then (if v = unlistedByte then (a, b) :: rest else (x, v) :: (a, b) :: rest)
    else if x = a then (if v = unlistedByte then rest else (x, v) :: rest)
    else (a, b) :: storeCell x v rest

/-- `M[a]` (R42). -/
def Memory.readByte (m : Memory) (a : Word) : Byte := lookupCell m.cells a.toNat

/-- `M[a] <- v`. -/
def Memory.writeByte (m : Memory) (a : Word) (v : Byte) : Memory := ⟨storeCell a.toNat v m.cells⟩

/-- `MemRead(a, 2)`: the byte at the lower address is the more significant (R52). -/
def Memory.readHalf (m : Memory) (a : Word) : Half := m.readByte a ++ m.readByte (a + 1)

/-- `MemRead(a, 4)` (R52). -/
def Memory.readWord (m : Memory) (a : Word) : Word := m.readHalf a ++ m.readHalf (a + 2)

/-- `MemRead(a, 8) = MemRead(a, 4) ‖ MemRead(a + 4, 4)` (R52). -/
def Memory.readDword (m : Memory) (a : Word) : Dword := joinWords (m.readWord a) (m.readWord (a + 4))

/-- `MemWrite(a, 2, v)`: the most significant byte to the lowest address (R52). -/
def Memory.writeHalf (m : Memory) (a : Word) (v : Half) : Memory :=
  (m.writeByte a (v.extractLsb' 8 8)).writeByte (a + 1) (v.extractLsb' 0 8)

/-- `MemWrite(a, 4, v)` (R52). -/
def Memory.writeWord (m : Memory) (a : Word) (v : Word) : Memory :=
  (m.writeHalf a (v.extractLsb' 16 16)).writeHalf (a + 2) (v.extractLsb' 0 16)

/-- `MemWrite(a, 8, v)` (R52). -/
def Memory.writeDword (m : Memory) (a : Word) (v : Dword) : Memory :=
  (m.writeWord a (highWord v)).writeWord (a + 4) (lowWord v)

/-! ## Loading a program (R362(1)) -/

/-- The bytes put at `a`, `a + 1`, and so on. -/
def Memory.writeBytes (m : Memory) (a : Word) : List Byte → Memory
  | [] => m
  | b :: bs => (m.writeByte a b).writeBytes (a + 1) bs

/-- The segments put into memory, the first of the list last. -/
def Memory.load (m : Memory) : List Segment → Memory
  | [] => m
  | g :: gs => (m.load gs).writeBytes g.base g.bytes

end Sys2Proof.Machine
end

