-- ==== Sys2Proof/Machine/State.lean ====
section
/-! DEFINITION. The state of the machine (spec 10_state.md R20 to R43), the reasons a step can stop (60_exceptions.md R320
to R331), and the launch state (R44, 70_reset_and_hazards.md R361, R362). INVENTORY.md lists every field with its rule and its
reset value. -/

namespace Sys2Proof.Machine

/-- Everything the spec gives the machine (R20). No field is a function. -/
structure State where
  /-- The launch parameters that stay fixed through a run: NWINDOWS, HALT_PC, Mapped, Text (R6). -/
  params : Params
  /-- `G[1..7]`; `G[0]` is the constant 0 and is not stored (R20, R21). -/
  globals : Vector Word 7
  /-- `W[0 .. 16*NWINDOWS - 1]` (R20, R23); slots from 16*NWINDOWS on do not exist and are never touched. -/
  windows : Vector Word 512
  /-- The address of the instruction being executed (R27). -/
  pc : Word
  /-- The address of the instruction to be executed next (R28). -/
  npc : Word
  /-- N, Z, V, C (R31). -/
  icc : Icc
  /-- `Y` (R33). -/
  y : Word
  /-- `CWP`, the current window pointer (R24). -/
  cwp : BitVec 5
  /-- `WIM`, the window-invalid mask (R25). -/
  wim : Word
  /-- The other fields of the PSR (R34). -/
  psr : Psr
  /-- `TBR` bits 31:12, the trap base address (R35). -/
  tbrBase : BitVec 20
  /-- `TBR` bits 11:4, the trap type (R35). -/
  tbrTt : BitVec 8
  /-- The ancillary state registers ASR1 to ASR31 (R35). -/
  asr : Vector Word 31
  /-- `f[0..31]` (R36). -/
  f : Vector Word 32
  /-- FSR `fcc` (R39). -/
  fcc : Fcc
  /-- FSR `RD`, `TEM`, `NS`, `ver` (R38). -/
  fsr : Fsr
  /-- FSR `ftt` (R40). -/
  ftt : Ftt
  /-- FSR `aexc` (R40). -/
  aexc : IeeeFlags
  /-- FSR `cexc` (R40). -/
  cexc : IeeeFlags
  /-- `FQ`, the floating-point deferred-trap queue, always empty (R41). The entry format (address, instruction) is PRESUMED:
  log 11. -/
  fq : List (Word × Word)
  /-- `M` (R42). -/
  mem : Memory
  /-- 1 exactly when the previously executed instruction was `fcmpd` (R43(b)). -/
  afterFcmp : Bool
  /-- 1 exactly when the current instruction is the executed delay slot of a conditional branch (R43(c)). -/
  inCondDelay : Bool
  deriving DecidableEq, Repr

/-- The traps an instruction in scope can raise (R321). A fault is terminal: it changes no state, and carries the pc of the
faulting instruction, the npc (R333), and what the column "records" of R321 names. Each is safe: the model stops where
hardware would enter a handler (R320). -/
inductive Fault
  /-- `tt = 0x01`, raised by the fetch when a byte of the word at pc is not Mapped (R322). Safe. -/
  | instructionAccessException (pc npc : Word)
  /-- `tt = 0x02`, raised by integer `ldd` and `std` with odd `rd`, and by a word Version 8 assigns to no instruction (R323).
  Safe. -/
  | illegalInstruction (pc npc word : Word)
  /-- `tt = 0x04`, raised by every floating-point instruction while PSR.EF = 0 (R324). Safe. -/
  | fpDisabled (pc npc : Word)
  /-- `tt = 0x05`, raised by `save` into a window marked invalid (R325). Safe. -/
  | windowOverflow (pc npc : Word)
  /-- `tt = 0x06`, raised by `restore` into a window marked invalid (R326). Safe. -/
  | windowUnderflow (pc npc : Word)
  /-- `tt = 0x07`, raised by loads, stores and `jmpl` on a misaligned address (R327). Safe. -/
  | memAddressNotAligned (pc npc address : Word)
  /-- `tt = 0x08`, raised by floating instructions with an odd double register (R328), and by an unassigned `opf` (R98).
  Safe. -/
  | fpException (pc npc : Word) (ftt : Ftt)
  /-- `tt = 0x09`, raised by loads and stores when a byte of the access is not Mapped (R329). Safe. -/
  | dataAccessException (pc npc address : Word)
  /-- `tt = 0x2A`, raised by `udiv udivcc sdiv sdivcc` with divisor 0 (R330). Safe. -/
  | divisionByZero (pc npc : Word)
  deriving DecidableEq, Repr

/-- The reasons the model has no next state although nothing traps (R331). Each is safe: nothing is claimed of what
hardware does there. -/
inductive Refusal
  /-- Raised by `exec` for an instruction without a meaning yet (none is left). Safe. -/
  | notModelled (mnemonic : String)
  /-- Raised by the decoder for a SPARC instruction outside the subset (R99). Safe. -/
  | outOfSubset (name : String)
  /-- Raised by the decoder for a nonzero unused field (R97). Safe. -/
  | reservedFieldNonzero
  /-- Raised by a store any byte of which is Text (R64). Safe. -/
  | storeToText (address : Word)
  /-- Raised by a floating branch executed immediately after `fcmpd` (R366). Safe. -/
  | fbfccAfterFcmp
  /-- Raised by a control transfer in the delay slot of a conditional branch (R365). Safe. -/
  | dctiCouple
  /-- Raised by `step` when pc = HALT_PC: the run has ended normally and nothing is fetched (R15). Safe. DESIGN CHOICE of the
  outcome: log 6. -/
  | runEnded
  deriving DecidableEq, Repr

/-- The launch state of R44, R361 and R362: the arguments, `%sp` and the return linkage stand in the outs of the entry window, the program
and the data in memory, Mapped and Text describe them, and what R44 calls unspecified is as the launch has it. The fields that R44 says
are not modelled are zero. DESIGN CHOICE, unsafe for claims about them: log 11. -/
def State.launch (l : Launch) : State where
  params := l.runParams
  globals := l.globals
  windows := setOuts l.params.nwindows l.cwpInit.toNat l.outs l.windows
  pc := l.entryPc
  npc := l.entryPc + 4
  icc := l.icc
  y := l.y
  cwp := l.cwpInit
  wim := l.wimInit
  psr :=
    { impl := 0, ver := 0, ec := false, ef := Config.psrEf, pil := 0, s := Config.psrS, ps := false, et := false }
  tbrBase := 0
  tbrTt := 0
  asr := Vector.replicate 31 0
  f := l.f
  fcc := l.fcc
  fsr := { rd := .nearestEven, tem := .none, ns := Config.fsrNs, ver := 0 }
  ftt := .none
  aexc := .none
  cexc := .none
  fq := []
  mem := Memory.empty.load (l.program ++ l.data)
  afterFcmp := false
  inCondDelay := false

/-- The machine right after reset: the launch state (R360: "the spec does not model reset. It models launch"). -/
def State.reset : State := State.launch Launch.default

end Sys2Proof.Machine
end

