-- ==== Sys2Proof/Machine/Traps.lean ====
section
/-! DEFINITION. The trap table of SPARC Version 8 (spec 60_exceptions.md R335), "for naming faults consistently", and which
of its rows each fault of the model is (R321). -/

namespace Sys2Proof.Machine

/-- The rows of the table of R335. -/
inductive Trap
  | reset
  | dataStoreError
  | instructionAccessMmuMiss
  | instructionAccessError
  | rRegisterAccessError
  | instructionAccessException
  | privilegedInstruction
  | illegalInstruction
  | fpDisabled
  | cpDisabled
  | unimplementedFlush
  | watchpointDetected
  | windowOverflow
  | windowUnderflow
  | memAddressNotAligned
  | fpException
  | cpException
  | dataAccessError
  | dataAccessMmuMiss
  | dataAccessException
  | tagOverflow
  | divisionByZero
  /-- `ticc` with software trap number `n`: 0x80 to 0xFF. -/
  | trapInstruction (n : BitVec 7)
  /-- interrupt_level_(`l` + 1), that is level 1 to 15. -/
  | interruptLevel (l : Fin 15)
  /-- Implementation-dependent: 0x60 to 0x7F. -/
  | implementationDependent (n : BitVec 5)
  deriving DecidableEq, Repr

/-- The trap type number `tt` (R335); reset has none. -/
def Trap.tt : Trap → Option (BitVec 8)
  | .reset => none
  | .dataStoreError => some 0x2B
  | .instructionAccessMmuMiss => some 0x3C
  | .instructionAccessError => some 0x21
  | .rRegisterAccessError => some 0x20
  | .instructionAccessException => some 0x01
  | .privilegedInstruction => some 0x03
  | .illegalInstruction => some 0x02
  | .fpDisabled => some 0x04
  | .cpDisabled => some 0x24
  | .unimplementedFlush => some 0x25
  | .watchpointDetected => some 0x0B
  | .windowOverflow => some 0x05
  | .windowUnderflow => some 0x06
  | .memAddressNotAligned => some 0x07
  | .fpException => some 0x08
  | .cpException => some 0x28
  | .dataAccessError => some 0x29
  | .dataAccessMmuMiss => some 0x2C
  | .dataAccessException => some 0x09
  | .tagOverflow => some 0x0A
  | .divisionByZero => some 0x2A
  | .trapInstruction n => some (0x80 + n.setWidth 8)
  | .interruptLevel l => some (0x11 + BitVec.ofNat 8 l.val)
  | .implementationDependent n => some (0x60 + n.setWidth 8)

/-- The priority (R335), 1 the highest; that of the implementation-dependent traps is not given. -/
def Trap.priority : Trap → Option Nat
  | .reset => some 1
  | .dataStoreError => some 2
  | .instructionAccessMmuMiss => some 2
  | .instructionAccessError => some 3
  | .rRegisterAccessError => some 4
  | .instructionAccessException => some 5
  | .privilegedInstruction => some 6
  | .illegalInstruction => some 7
  | .fpDisabled => some 8
  | .cpDisabled => some 8
  | .unimplementedFlush => some 8
  | .watchpointDetected => some 8
  | .windowOverflow => some 9
  | .windowUnderflow => some 9
  | .memAddressNotAligned => some 10
  | .fpException => some 11
  | .cpException => some 11
  | .dataAccessError => some 12
  | .dataAccessMmuMiss => some 12
  | .dataAccessException => some 13
  | .tagOverflow => some 14
  | .divisionByZero => some 15
  | .trapInstruction _ => some 16
  | .interruptLevel l => some (31 - l.val)
  | .implementationDependent _ => none

/-- The row of the table a fault stands for: its trap name (R320, R321). -/
def Fault.trap : Fault → Trap
  | .instructionAccessException _ _ => .instructionAccessException
  | .illegalInstruction _ _ _ => .illegalInstruction
  | .fpDisabled _ _ => .fpDisabled
  | .windowOverflow _ _ => .windowOverflow
  | .windowUnderflow _ _ => .windowUnderflow
  | .memAddressNotAligned _ _ _ => .memAddressNotAligned
  | .fpException _ _ _ => .fpException
  | .dataAccessException _ _ _ => .dataAccessException
  | .divisionByZero _ _ => .divisionByZero

/-- The pc a fault records (R333). -/
def Fault.pc : Fault → Word
  | .instructionAccessException pc _ | .illegalInstruction pc _ _ | .fpDisabled pc _ | .windowOverflow pc _
  | .windowUnderflow pc _ | .memAddressNotAligned pc _ _ | .fpException pc _ _ | .dataAccessException pc _ _
  | .divisionByZero pc _ => pc

/-- The npc a fault records (R333). -/
def Fault.npc : Fault → Word
  | .instructionAccessException _ npc | .illegalInstruction _ npc _ | .fpDisabled _ npc | .windowOverflow _ npc
  | .windowUnderflow _ npc | .memAddressNotAligned _ npc _ | .fpException _ npc _ | .dataAccessException _ npc _
  | .divisionByZero _ npc => npc

end Sys2Proof.Machine
end

