-- ==== Sys2Proof/Machine/Ops.lean ====
section
/-! DEFINITION. The shared operations every meaning is built from: registers through their windows (spec 10_state.md R21 to
R26), floating registers (R36, R37), the advance of pc and npc (R29), raising a trap (60_exceptions.md R320), checked
memory access (46_load_store.md R230), delayed control transfer (45_branches.md R200, 44_control.md R182), and the composed
registers PSR, FSR, TBR (R34, R35, R38). -/

namespace Sys2Proof.Machine

/-- What one instruction answers (00_scope.md R14). -/
abbrev Result := Host.Outcome State Fault Refusal

/-! ## Taking an exception -/

/-- Raising a trap: the outcome is a fault that changes nothing and records the trap with the pc and npc of the raising
instruction (R9, R320, R333). -/
def raise (f : Word → Word → Fault) (s : State) : Result := .fault (f s.pc s.npc)

/-! ## Integer registers -/

/-- The contents of a cell; register 0 reads 0 (R21). -/
def State.readCell (s : State) : RegCell → Word
  | .zero => 0
  | .global i => s.globals[i]
  | .windowed k => s.windows[k]

/-- A cell set to `v`; a write to register 0 is discarded (R21). -/
def State.writeCell (s : State) (c : RegCell) (v : Word) : State :=
  match c with
  | .zero => s
  | .global i => { s with globals := s.globals.set i.val v i.isLt }
  | .windowed k => { s with windows := s.windows.set k.val v k.isLt }

/-- The cell of register `n` as seen from window `w` (`r_w[n]`, R9, R23). -/
def State.cellIn (s : State) (w : BitVec 5) (n : Reg) : RegCell := regCell s.params.nwindows w n

/-- The cell of register `n` of the current window. -/
def State.cell (s : State) (n : Reg) : RegCell := s.cellIn s.cwp n

/-- `r_w[n]` (R9). -/
def State.regIn (s : State) (w : BitVec 5) (n : Reg) : Word := s.readCell (s.cellIn w n)

/-- `r_w[n] <- v` (R9). -/
def State.setRegIn (s : State) (w : BitVec 5) (n : Reg) (v : Word) : State := s.writeCell (s.cellIn w n) v

/-- `r[n]`: the register of the current window (R9). -/
def State.reg (s : State) (n : Reg) : Word := s.regIn s.cwp n

/-- `r[n] <- v` (R9). -/
def State.setReg (s : State) (n : Reg) (v : Word) : State := s.setRegIn s.cwp n v

/-! ## Floating registers -/

/-- `f[n]` (R36). -/
def State.freg (s : State) (n : FReg) : Word := s.f[n.toNat]'n.isLt

/-- `f[n] <- v`. -/
def State.setFreg (s : State) (n : FReg) (v : Word) : State := { s with f := s.f.set n.toNat v n.isLt }

/-- `D[n] = f[n] ‖ f[n+1]` for even `n` (R37). -/
def State.dreg (s : State) (n : FReg) : Dword := joinWords (s.freg n) (s.freg (n + 1))

/-- `D[n] <- v` (R37). -/
def State.setDreg (s : State) (n : FReg) (v : Dword) : State := (s.setFreg n (highWord v)).setFreg (n + 1) (lowWord v)

/-- An even register number, as a double operand must be (R37, R236, R240). -/
def isEven (n : BitVec 5) : Bool := !n.getLsbD 0

/-- The floating-point unit is enabled, or fp_disabled is raised (R260(a), R324). -/
def withFpu (s : State) (k : Result) : Result := if s.psr.ef then k else raise .fpDisabled s

/-- Every double operand is even, or fp_exception with ftt = invalid_fp_register is raised (R260(b), R328). -/
def withEven (s : State) (regs : List FReg) (k : Result) : Result :=
  if regs.all isEven then k else raise (fun pc npc => .fpException pc npc .invalidFpRegister) s

/-- An FPop that raised the IEEE exceptions `e` ends in the state `t`, with `cexc` set to `e`, `aexc` accumulating it and `ftt`
cleared (R40); an exception enabled in `TEM` raises fp_exception instead (R38, R328: never, while TEM = 0; log 13). -/
def finishFpop (s : State) (e : IeeeFlags) (t : State) : Result :=
  if e.meets s.fsr.tem then raise (fun pc npc => .fpException pc npc .ieee754Exception) s
  else .next { t with cexc := e, aexc := s.aexc.union e, ftt := .none }

/-! ## The program counters -/

/-- The advance of an instruction that is not a control transfer (R29). -/
def State.advance (s : State) : State :=
  { s with pc := s.npc, npc := s.npc + 4, inCondDelay := false, afterFcmp := false }

/-- A delayed jump: the instruction at npc executes next, the target after it (R28, R182). -/
def State.jumpDelayed (s : State) (target : Word) : State :=
  { s with pc := s.npc, npc := target, inCondDelay := false, afterFcmp := false }

/-- A control transfer is refused in the delay slot of a conditional branch (R365). -/
def withoutCouple (s : State) (k : Result) : Result := if s.inCondDelay then .refused .dctiCouple else k

/-- "PC + 4 * sign_ext(disp22)" (R94). -/
def branchTarget (s : State) (disp22 : BitVec 22) : Word := s.pc + 4 * disp22.signExtend 32

/-- `pc + 4 * disp30` (R95). -/
def callTarget (s : State) (disp30 : BitVec 30) : Word := s.pc + 4 * disp30.setWidth 32

/-- The four cases of a branch (R200, R290). `always` says that `cond` is 1000 (`ba`, `fba`). -/
def branchState (s : State) (always annul taken : Bool) (disp22 : BitVec 22) : State :=
  let target := branchTarget s disp22
  if taken then
    if annul && always then { s with pc := target, npc := target + 4, inCondDelay := false, afterFcmp := false }
    else { s with pc := s.npc, npc := target, inCondDelay := !always, afterFcmp := false }
  else if annul then { s with pc := s.npc + 4, npc := s.npc + 8, inCondDelay := false, afterFcmp := false }
  else { s with pc := s.npc, npc := s.npc + 4, inCondDelay := !always, afterFcmp := false }

/-! ## Checked memory access -/

/-- Some region of the list holds the address. -/
def inRegions (rs : List Region) (a : Word) : Bool :=
  rs.any fun r => decide (r.base ≤ a.toNat) && decide (a.toNat < r.base + r.size)

/-- `Mapped(a)` (R6, R59). -/
def State.mapped (s : State) (a : Word) : Bool := inRegions s.params.mapped a

/-- `Text(a)`, which "implies `Mapped(a)`" (R6, R64). -/
def State.isText (s : State) (a : Word) : Bool := inRegions s.params.text a && s.mapped a

/-- Every one of the `n` bytes from `a` up satisfies `p`. -/
def allBytes (p : Word → Bool) (a : Word) : Nat → Bool
  | 0 => true
  | n + 1 => allBytes p a n && p (a + BitVec.ofNat 32 n)

/-- Some one of the `n` bytes from `a` up satisfies `p`. -/
def someByte (p : Word → Bool) (a : Word) : Nat → Bool
  | 0 => false
  | n + 1 => someByte p a n || p (a + BitVec.ofNat 32 n)

/-- A data access of `size` bytes at `ea`: aligned, then Mapped, or the trap is raised (R54, R59, R230). -/
def withAccess (s : State) (ea : Word) (size : Nat) (k : Result) : Result :=
  if ea.toNat % size ≠ 0 then raise (fun pc npc => .memAddressNotAligned pc npc ea) s
  else if allBytes s.mapped ea size then k
  else raise (fun pc npc => .dataAccessException pc npc ea) s

/-- A store of `size` bytes at `ea`: as an access, and then no byte of it is Text (R64, R230). -/
def withStore (s : State) (ea : Word) (size : Nat) (k : Result) : Result :=
  withAccess s ea size (if someByte s.isText ea size then .refused (.storeToText ea) else k)

/-- The address space identifier of an instruction fetch (R51); both spaces are the one memory. -/
def State.fetchAsi (s : State) : BitVec 8 := if s.psr.s then 0x09 else 0x08

/-- The address space identifier of a load or store in scope (R51). -/
def State.dataAsi (s : State) : BitVec 8 := if s.psr.s then 0x0B else 0x0A

/-! ## Composed registers -/

/-- The PSR as one word (R34). -/
def State.psrWord (s : State) : Word :=
  placed s.psr.impl 28 ||| placed s.psr.ver 24 ||| placed s.icc.toBits 20 ||| placed (BitVec.ofBool s.psr.ec) 13 |||
    placed (BitVec.ofBool s.psr.ef) 12 ||| placed s.psr.pil 8 ||| placed (BitVec.ofBool s.psr.s) 7 |||
    placed (BitVec.ofBool s.psr.ps) 6 ||| placed (BitVec.ofBool s.psr.et) 5 ||| placed s.cwp 0

/-- The FSR as one word (R38); `qne` says whether FQ holds an entry (R41). -/
def State.fsrWord (s : State) : Word :=
  placed s.fsr.rd.toBits 30 ||| placed s.fsr.tem.toBits 23 ||| placed (BitVec.ofBool s.fsr.ns) 22 |||
    placed s.fsr.ver 17 ||| placed s.ftt.toBits 14 ||| placed (BitVec.ofBool !s.fq.isEmpty) 13 |||
    placed s.fcc.toBits 10 ||| placed s.aexc.toBits 5 ||| placed s.cexc.toBits 0

/-- The TBR as one word (R35). -/
def State.tbrWord (s : State) : Word := placed s.tbrBase 12 ||| placed s.tbrTt 4

/-! ## What Version 8 hardware does on a trap (R334)

"For orientation only; no rule of this spec depends on it" (R334), "is not part of the model" (R320). No meaning and no step
calls these two (log 24). -/

/-- Hardware trap entry with trap type `tt`, when ET = 1; with ET = 0 the processor enters error mode and halts (none). -/
def hardwareTrapEntry (tt : BitVec 8) (s : State) : Option State :=
  if s.psr.et then
    let w := windowBelow s.params.nwindows s.cwp
    let t := ((s.setRegIn w 17 s.pc).setRegIn w 18 s.npc)
    let u := { t with cwp := w, tbrTt := tt, psr := { s.psr with et := false, ps := s.psr.s, s := true } }
    some { u with pc := u.tbrWord, npc := u.tbrWord + 4 }
  else none

/-- The effect of `rett` to `target` when it does not itself trap; none where it traps (ET = 1, S = 0, window underflow, or a
misaligned target). The delayed jump is PRESUMED: log 24. -/
def hardwareTrapReturn (target : Word) (s : State) : Option State :=
  let w := windowAbove s.params.nwindows s.cwp
  if s.psr.et ∨ s.psr.s = false ∨ s.wim.getLsbD w.toNat ∨ target.toNat % 4 ≠ 0 then none
  else some { s.jumpDelayed target with cwp := w, psr := { s.psr with s := s.psr.ps, et := true } }

end Sys2Proof.Machine
end

