-- ==== Sys2Proof/Machine/Branch.lean ====
section
/-! DEFINITION. The sixteen integer branches (spec 45_branches.md R200 to R217): each passes its own test of the condition codes
(R201) to the one branch operation. -/

namespace Sys2Proof.Machine

/-- Executing an integer branch whose test answers `taken`; `always` says that it is `ba` (R200). -/
def integerBranchTo (s : State) (always annul taken : Bool) (disp22 : BitVec 22) : Result :=
  withoutCouple s (.next (branchState s always annul taken disp22))

/-- `ba` (R202): always taken. -/
def execBa (annul : Bool) (disp22 : BitVec 22) (s : State) : Result :=
  integerBranchTo s true annul true disp22

/-- `bn` (R203): never taken. -/
def execBn (annul : Bool) (disp22 : BitVec 22) (s : State) : Result :=
  integerBranchTo s false annul false disp22

/-- `bne` (R204): taken when not Z. -/
def execBne (annul : Bool) (disp22 : BitVec 22) (s : State) : Result :=
  integerBranchTo s false annul (!s.icc.z) disp22

/-- `be` (R205): taken when Z. -/
def execBe (annul : Bool) (disp22 : BitVec 22) (s : State) : Result :=
  integerBranchTo s false annul s.icc.z disp22

/-- `bg` (R206): taken when not (Z or (N xor V)). -/
def execBg (annul : Bool) (disp22 : BitVec 22) (s : State) : Result :=
  integerBranchTo s false annul (!(s.icc.z || (s.icc.n != s.icc.v))) disp22

/-- `ble` (R207): taken when Z or (N xor V). -/
def execBle (annul : Bool) (disp22 : BitVec 22) (s : State) : Result :=
  integerBranchTo s false annul (s.icc.z || (s.icc.n != s.icc.v)) disp22

/-- `bge` (R208): taken when not (N xor V). -/
def execBge (annul : Bool) (disp22 : BitVec 22) (s : State) : Result :=
  integerBranchTo s false annul (!(s.icc.n != s.icc.v)) disp22

/-- `bl` (R209): taken when N xor V. -/
def execBl (annul : Bool) (disp22 : BitVec 22) (s : State) : Result :=
  integerBranchTo s false annul (s.icc.n != s.icc.v) disp22

/-- `bgu` (R210): taken when not (C or Z). -/
def execBgu (annul : Bool) (disp22 : BitVec 22) (s : State) : Result :=
  integerBranchTo s false annul (!(s.icc.c || s.icc.z)) disp22

/-- `bleu` (R211): taken when C or Z. -/
def execBleu (annul : Bool) (disp22 : BitVec 22) (s : State) : Result :=
  integerBranchTo s false annul (s.icc.c || s.icc.z) disp22

/-- `bcc` (R212): taken when not C. -/
def execBcc (annul : Bool) (disp22 : BitVec 22) (s : State) : Result :=
  integerBranchTo s false annul (!s.icc.c) disp22

/-- `bcs` (R213): taken when C. -/
def execBcs (annul : Bool) (disp22 : BitVec 22) (s : State) : Result :=
  integerBranchTo s false annul s.icc.c disp22

/-- `bpos` (R214): taken when not N. -/
def execBpos (annul : Bool) (disp22 : BitVec 22) (s : State) : Result :=
  integerBranchTo s false annul (!s.icc.n) disp22

/-- `bneg` (R215): taken when N. -/
def execBneg (annul : Bool) (disp22 : BitVec 22) (s : State) : Result :=
  integerBranchTo s false annul s.icc.n disp22

/-- `bvc` (R216): taken when not V. -/
def execBvc (annul : Bool) (disp22 : BitVec 22) (s : State) : Result :=
  integerBranchTo s false annul (!s.icc.v) disp22

/-- `bvs` (R217): taken when V. -/
def execBvs (annul : Bool) (disp22 : BitVec 22) (s : State) : Result :=
  integerBranchTo s false annul s.icc.v disp22

end Sys2Proof.Machine
end

