-- ==== Sys2Proof/Machine/Operands.lean ====
section
/-! DEFINITION. Operand forms (spec 00_scope.md R10, 20_memory.md R66, 42_shifts.md R160). -/

namespace Sys2Proof.Machine

/-- `op2 = (i = 1) ? sext_32(simm13) : r[rs2]` (R10, R92). -/
def State.op2 (s : State) : RegOrImm → Word
  | .reg rs2 => s.reg rs2
  | .imm simm13 => simm13.signExtend 32

/-- `op2[4:0]`, the shift count, 0 to 31 (R96, R160). -/
def State.shiftCount (s : State) : ShiftCount → Nat
  | .reg rs2 => ((s.reg rs2).extractLsb' 0 5).toNat
  | .imm shcnt => shcnt.toNat

/-- `ea = (r[rs1] + op2) mod 2^32` (R66). -/
def State.ea (s : State) (rs1 : Reg) (src2 : RegOrImm) : Word := s.reg rs1 + s.op2 src2

end Sys2Proof.Machine
end

