-- ==== Sys2Proof/Machine/Control.lean ====
section
/-! DEFINITION. `save`, `restore`, `call`, `jmpl` (spec 44_control.md R180 to R184). -/

namespace Sys2Proof.Machine

/-- Moving to window `new` and adding: both sources are read in the old window and the sum is written in the new one; the trap is
raised, and nothing changes, when WIM marks `new` invalid (R180, R181, R184). -/
def changeWindow (s : State) (new : BitVec 5) (trap : Word → Word → Fault) (rs1 : Reg) (src2 : RegOrImm) (rd : Reg) : Result :=
  if s.wim.getLsbD new.toNat then raise trap s
  else .next ({ s with cwp := new }.setRegIn new rd (s.reg rs1 + s.op2 src2)).advance

/-- `save` (R180): to window `(CWP - 1) mod NWINDOWS`. -/
def execSave (rs1 : Reg) (src2 : RegOrImm) (rd : Reg) (s : State) : Result :=
  changeWindow s (windowBelow s.params.nwindows s.cwp) .windowOverflow rs1 src2 rd

/-- `restore` (R181): to window `(CWP + 1) mod NWINDOWS`. -/
def execRestore (rs1 : Reg) (src2 : RegOrImm) (rd : Reg) (s : State) : Result :=
  changeWindow s (windowAbove s.params.nwindows s.cwp) .windowUnderflow rs1 src2 rd

/-- `call` (R182): `r[15] <- pc` and a delayed jump to `pc + 4 * disp30`. -/
def execCall (disp30 : BitVec 30) (s : State) : Result :=
  withoutCouple s (.next ((s.setReg 15 s.pc).jumpDelayed (callTarget s disp30)))

/-- `jmpl` (R183): `r[rd] <- pc` and a delayed jump to `r[rs1] + op2`, which is read before `rd` is written and must be a multiple
of 4. -/
def execJmpl (rs1 : Reg) (src2 : RegOrImm) (rd : Reg) (s : State) : Result :=
  withoutCouple s
    (if (s.ea rs1 src2).toNat % 4 ≠ 0 then raise (fun pc npc => .memAddressNotAligned pc npc (s.ea rs1 src2)) s
    else .next ((s.setReg rd s.pc).jumpDelayed (s.ea rs1 src2)))

end Sys2Proof.Machine
end

