-- ==== Sys2Proof/Machine/Ieee.lean ====
section
/-! DEFINITION. Binary64 values and arithmetic (spec 47_floating_point.md R268, R269, R272 to R274), by exact integers. Every
finite double is a whole number of units of 2^-1074 (the smallest subnormal), so an exact sum is an integer number of
units and an exact product or quotient a ratio of two integers; one rounding function serves all of them. -/

namespace Sys2Proof.Machine

/-! ## The format (R274) -/

/-- The sign, bit 63. -/
def dSign (d : Dword) : Bool := d.getLsbD 63

/-- The biased exponent `e`, bits 62:52. -/
def dExp (d : Dword) : Nat := (d.extractLsb' 52 11).toNat

/-- The fraction `m`, bits 51:0. -/
def dFrac (d : Dword) : Nat := (d.extractLsb' 0 52).toNat

/-- `e = 2047`, `m` not 0. -/
def isNaN (d : Dword) : Bool := decide (dExp d = 2047) && decide (dFrac d ≠ 0)

/-- A NaN with `m[51] = 0`. -/
def isSignallingNaN (d : Dword) : Bool := isNaN d && !d.getLsbD 51

/-- `e = 2047`, `m = 0`. -/
def isInf (d : Dword) : Bool := decide (dExp d = 2047) && decide (dFrac d = 0)

/-- `e = 0`, `m = 0`. -/
def isZero (d : Dword) : Bool := decide (dExp d = 0) && decide (dFrac d = 0)

/-- The magnitude of a finite double in units of 2^-1074: `m` when `e = 0`, else `(2^52 + m) * 2^(e-1)` (R274). An infinity's is
larger than every finite one. -/
def dMag (d : Dword) : Nat := if dExp d = 0 then dFrac d else (2 ^ 52 + dFrac d) * 2 ^ (dExp d - 1)

/-- `val(d)` of a finite double in units of 2^-1074. -/
def dVal (d : Dword) : Int := if dSign d then -(dMag d : Int) else dMag d

/-- The double with the given sign and bits 62:0. -/
def withSign (neg : Bool) (rest : Nat) : Dword := BitVec.ofNat 64 ((if neg then 2 ^ 63 else 0) + rest)

/-- Bits 62:0 of an infinity; the bits below it are those of the finite doubles, in order of magnitude. -/
def infBits : Nat := 2047 * 2 ^ 52

/-- Infinity with a sign. -/
def infinity (neg : Bool) : Dword := withSign neg infBits

/-- Zero with a sign. -/
def signedZero (neg : Bool) : Dword := withSign neg 0

/-- The double with its sign bit inverted (R266). -/
def negateDouble (d : Dword) : Dword := d ^^^ 0x8000000000000000

/-- The double with its sign bit cleared (R267). -/
def absDouble (d : Dword) : Dword := d &&& 0x7FFFFFFFFFFFFFFF

/-- `GenNaN`: a quiet NaN (`e = 2047`, `m[51] = 1`) whose other bits may depend on the operation and its operands and are left
open (R273, D23). Free value: log 7. -/
def genNaN (op : FpOp) (a b : Dword) : Dword :=
  let free := Config.genNaNBits op a b
  withSign (free.getLsbD 51) (infBits + 2 ^ 51 + (free.extractLsb' 0 51).toNat)

/-! ## Rounding -/

/-- Whether a magnitude `q + rem/den` (with `rem < den`) is rounded up to `q + 1`. Nearest takes the even neighbour at a tie
(R38, R273). -/
def roundsUp (dir : RoundDir) (neg : Bool) (q rem den : Nat) : Bool :=
  match dir with
  | .nearestEven => decide (den < 2 * rem) || (decide (2 * rem = den) && decide (q % 2 = 1))
  | .towardZero => false
  | .up => decide (rem ≠ 0) && !neg
  | .down => decide (rem ≠ 0) && neg

/-- `num / den` rounded to a whole number. -/
def roundQuotient (dir : RoundDir) (neg : Bool) (num den : Nat) : Nat :=
  if roundsUp dir neg (num / den) (num % den) den then num / den + 1 else num / den

/-- The power of two, in units, that the last place of a 53-bit significand weighs at magnitude `num / den` units; at least
one unit, the last place of a subnormal. -/
def lastPlace (num den : Nat) : Nat := Nat.log2 (num / den) - 52

/-- Bits 62:0 of the magnitude `num / den` units rounded to 53 bits (fewer when subnormal), the exponent unbounded above. The
significand `n` counts last places; `(lastPlace, n)` is written as exponent and fraction by one addition, which carries into
the exponent when `n` reaches 2^53. -/
def roundedBits (dir : RoundDir) (neg : Bool) (num den : Nat) : Nat :=
  lastPlace num den * 2 ^ 52 + roundQuotient dir neg num (den * 2 ^ lastPlace num den)

/-- The rounded result differs from the exact one (R273). -/
def isInexact (num den : Nat) : Bool := decide (num % (den * 2 ^ lastPlace num den) ≠ 0)

/-- The result is too small for a normal number (R273). Where that depends on looking before or after rounding, the spec leaves
it open (U27): log 10. -/
def isTiny (dir : RoundDir) (neg : Bool) (num den : Nat) : Bool :=
  decide (num < den * 2 ^ 52) &&
    (decide (roundQuotient dir neg (2 * num) den < 2 ^ 53) || Config.tininessBeforeRounding)

/-- An overflowing result: infinity in round to nearest (R273); in the directed modes, infinity or the largest finite magnitude
(PRESUMED, IEEE 754: log 14). -/
def overflowBits (dir : RoundDir) (neg : Bool) : Nat :=
  match dir with
  | .nearestEven => infBits
  | .towardZero => infBits - 1
  | .up => if neg then infBits - 1 else infBits
  | .down => if neg then infBits else infBits - 1

/-- A result with the IEEE exceptions it raised. -/
structure FpResult where
  value : Dword
  flags : IeeeFlags
  deriving DecidableEq, Repr

/-- An exact result that raises nothing. -/
def exactly (d : Dword) : FpResult := ⟨d, .none⟩

/-- The double nearest (in direction `dir`) to `num / den` units with the given sign, `num` not 0 (R273). -/
def roundResult (dir : RoundDir) (neg : Bool) (num den : Nat) : FpResult :=
  if infBits ≤ roundedBits dir neg num den then
    ⟨withSign neg (overflowBits dir neg), ⟨false, true, false, false, true⟩⟩
  else
    ⟨withSign neg (roundedBits dir neg num den),
      ⟨false, false, isInexact num den && isTiny dir neg num den, false, isInexact num den⟩⟩

/-! ## Arithmetic (R273) -/

/-- An invalid operation: a quiet NaN (R273). -/
def invalidResult (op : FpOp) (a b : Dword) : FpResult := ⟨genNaN op a b, ⟨true, false, false, false, false⟩⟩

/-- `x + y` for `x`, `y` not NaNs; `invalid` is the answer to infinity - infinity. An exact sum of zero has the common sign of two
zeros of one sign, and is else +0 (-0 when rounding toward -infinity, PRESUMED: log 14). -/
def addNumbers (dir : RoundDir) (invalid : FpResult) (x y : Dword) : FpResult :=
  if isInf x then (if isInf y && (dSign x != dSign y) then invalid else exactly x)
  else if isInf y then exactly y
  else if dVal x + dVal y = 0 then
    exactly (signedZero (if dSign x = dSign y then dSign x else decide (dir = .down)))
  else roundResult dir (decide (dVal x + dVal y < 0)) (dVal x + dVal y).natAbs 1

/-- `x * y` for `x`, `y` not NaNs. -/
def mulNumbers (dir : RoundDir) (invalid : FpResult) (x y : Dword) : FpResult :=
  let neg := dSign x != dSign y
  if isInf x || isInf y then (if isZero x || isZero y then invalid else exactly (infinity neg))
  else if isZero x || isZero y then exactly (signedZero neg)
  else roundResult dir neg (dMag x * dMag y) (2 ^ 1074)

/-- `x / y` for `x`, `y` not NaNs. -/
def divNumbers (dir : RoundDir) (invalid : FpResult) (x y : Dword) : FpResult :=
  let neg := dSign x != dSign y
  if isInf x then (if isInf y then invalid else exactly (infinity neg))
  else if isInf y then exactly (signedZero neg)
  else if isZero y then
    (if isZero x then invalid else ⟨infinity neg, ⟨false, false, false, true, false⟩⟩)
  else if isZero x then exactly (signedZero neg)
  else roundResult dir neg (dMag x * 2 ^ 1074) (dMag y)

/-- `faddd`, `fsubd`, `fmuld`, `fdivd` on two doubles (R261 to R264, R273): a NaN operand gives a quiet NaN, invalid only when one
signals; "`fsubd x, y` is `faddd x, (-y)` in every case". -/
def ieeeArith (dir : RoundDir) (op : FpOp) (a b : Dword) : FpResult :=
  if isNaN a || isNaN b then
    ⟨genNaN op a b, ⟨isSignallingNaN a || isSignallingNaN b, false, false, false, false⟩⟩
  else
    match op with
    | .add => addNumbers dir (invalidResult op a b) a b
    | .sub => addNumbers dir (invalidResult op a b) a (negateDouble b)
    | .mul => mulNumbers dir (invalidResult op a b) a b
    | .div => divNumbers dir (invalidResult op a b) a b

/-- The same under the FSR: in non-standard mode the spec describes no result (R38: log 15). -/
def fpArith (fsr : Fsr) (op : FpOp) (a b : Dword) : FpResult :=
  if fsr.ns then ⟨Config.nonStandardResult op a b, IeeeFlags.ofBits (Config.nonStandardExceptions op a b)⟩
  else ieeeArith fsr.rd op a b

/-! ## Conversions and comparison -/

/-- `binary64(s(v))`: exact for every 32-bit integer (R268). -/
def intToDouble (v : Word) : Dword :=
  if v = 0 then signedZero false
  else (roundResult .nearestEven (decide (v.toInt < 0)) (v.toInt.natAbs * 2 ^ 1074) 1).value

/-- `trunc(val(d))` of a finite double: rounds toward zero (R269). -/
def truncDouble (d : Dword) : Int :=
  if dSign d then -((dMag d / 2 ^ 1074 : Nat) : Int) else (dMag d / 2 ^ 1074 : Nat)

/-- A NaN, an infinity, or a truncated value outside -2^31 to 2^31 - 1 (R269). -/
def fdtoiIsInvalid (d : Dword) : Bool :=
  isNaN d || isInf d || decide (truncDouble d < -2 ^ 31) || decide (2 ^ 31 - 1 < truncDouble d)

/-- A finite double with a fraction part. -/
def hasFraction (d : Dword) : Bool := !isNaN d && !isInf d && decide (dMag d % 2 ^ 1074 ≠ 0)

/-- `fdtoi` (R269): toward zero whatever FSR.RD says, inexact when the double has a fraction part. A double that does not fit gives a value
that is left open, and invalid. Whether invalid excludes inexact there, for a double with a fraction part, R269 does not say: DESIGN
CHOICE, a free value; a NaN and an infinity raise invalid alone (log 8). -/
def doubleToInt (d : Dword) : Word × IeeeFlags :=
  if fdtoiIsInvalid d then (Config.fdtoiInvalid d, ⟨true, false, false, false, hasFraction d && Config.fdtoiInvalidInexact d⟩)
  else (BitVec.ofInt 32 (truncDouble d), ⟨false, false, false, false, hasFraction d⟩)

/-- The relation `fcmpd` finds (R272): +0 and -0 are equal; infinities compare by their magnitude. -/
def compareDoubles (a b : Dword) : Fcc :=
  if isNaN a || isNaN b then .unordered
  else if dVal a = dVal b then .equal
  else if dVal a < dVal b then .less
  else .greater

end Sys2Proof.Machine
end

