-- ==== Sys2Proof/Machine/Float.lean ====
section
/-! DEFINITION. The floating-point operate instructions, floating `ldd` and `std`, and `fcmpd` (spec 47_floating_point.md R260 to R274).
Order of checks: enabled, even registers, then the access (R260, R270, R271; log 16). -/

namespace Sys2Proof.Machine

/-- `D[rd] <- D[rs1] op D[rs2]`, rounded in the direction of the FSR (R261 to R264, R273). -/
def fpBinary (op : FpOp) (rs1 rs2 rd : FReg) (s : State) : Result :=
  let r := fpArith s.fsr op (s.dreg rs1) (s.dreg rs2)
  withFpu s (withEven s [rs1, rs2, rd] (finishFpop s r.flags (s.setDreg rd r.value).advance))

/-- `D[rd] <- g(D[rs2])`, raising nothing (R265 to R267). -/
def fpMove (g : Dword → Dword) (rs2 rd : FReg) (s : State) : Result :=
  withFpu s (withEven s [rs2, rd] (finishFpop s .none (s.setDreg rd (g (s.dreg rs2))).advance))

/-- `faddd` (R261). -/
def execFaddd (rs1 rs2 rd : FReg) (s : State) : Result := fpBinary .add rs1 rs2 rd s

/-- `fsubd` (R262). -/
def execFsubd (rs1 rs2 rd : FReg) (s : State) : Result := fpBinary .sub rs1 rs2 rd s

/-- `fmuld` (R263). -/
def execFmuld (rs1 rs2 rd : FReg) (s : State) : Result := fpBinary .mul rs1 rs2 rd s

/-- `fdivd` (R264). -/
def execFdivd (rs1 rs2 rd : FReg) (s : State) : Result := fpBinary .div rs1 rs2 rd s

/-- `fmovd` (R265): a copy of all 64 bits. -/
def execFmovd (rs2 rd : FReg) (s : State) : Result := fpMove id rs2 rd s

/-- `fnegd` (R266): the sign bit is inverted. -/
def execFnegd (rs2 rd : FReg) (s : State) : Result := fpMove negateDouble rs2 rd s

/-- `fabsd` (R267): the sign bit is cleared. -/
def execFabsd (rs2 rd : FReg) (s : State) : Result := fpMove absDouble rs2 rd s

/-- `fitod` (R268): the integer in the single register `f[rs2]` becomes a double in `D[rd]`, exactly. -/
def execFitod (rs2 rd : FReg) (s : State) : Result :=
  withFpu s (withEven s [rd] (finishFpop s .none (s.setDreg rd (intToDouble (s.freg rs2))).advance))

/-- `fdtoi` (R269): `D[rs2]` truncated to an integer in the single register `f[rd]`. -/
def execFdtoi (rs2 rd : FReg) (s : State) : Result :=
  let r := doubleToInt (s.dreg rs2)
  withFpu s (withEven s [rs2] (finishFpop s r.2 (s.setFreg rd r.1).advance))

/-- Floating `std` (R270): `MemWrite(ea, 8, f[rd] ‖ f[rd+1])`; the register check comes first. -/
def execStdf (rs1 : Reg) (src2 : RegOrImm) (rd : FReg) (s : State) : Result :=
  withFpu s
    (withEven s [rd]
      (withStore s (s.ea rs1 src2) 8
        (.next { s with mem := s.mem.writeDword (s.ea rs1 src2) (s.dreg rd) }.advance)))

/-- Floating `ldd` (R271): the word at `ea` to `f[rd]`, the word at `ea + 4` to `f[rd+1]`; the register check comes first. -/
def execLddf (rs1 : Reg) (src2 : RegOrImm) (rd : FReg) (s : State) : Result :=
  withFpu s
    (withEven s [rd] (withAccess s (s.ea rs1 src2) 8 (.next (s.setDreg rd (s.mem.readDword (s.ea rs1 src2))).advance)))

/-- `fcmpd` (R272): `fcc` becomes the relation of `D[rs1]` to `D[rs2]`; invalid only for a signalling NaN; `after_fcmp <- 1`. -/
def execFcmpd (rs1 rs2 : FReg) (s : State) : Result :=
  withFpu s
    (withEven s [rs1, rs2]
      (finishFpop s ⟨isSignallingNaN (s.dreg rs1) || isSignallingNaN (s.dreg rs2), false, false, false, false⟩
        { s.advance with fcc := compareDoubles (s.dreg rs1) (s.dreg rs2), afterFcmp := true }))

end Sys2Proof.Machine
end

