-- ==== Sys2Proof/Machine/FloatBranch.lean ====
section
/-! DEFINITION. The sixteen floating branches (spec 48_fp_branches.md R290 to R307): each passes its own test of `fcc` (R291) to the one
branch operation. -/

namespace Sys2Proof.Machine

/-- Executing a floating branch whose test answers `taken`; `always` says that it is `fba`. Refused in the delay slot of a conditional
branch (R365) and immediately after `fcmpd` (R366), these checked first (R332); fp_disabled while EF = 0 (R290). -/
def floatBranchTo (s : State) (always annul taken : Bool) (disp22 : BitVec 22) : Result :=
  withoutCouple s
    (if s.afterFcmp then .refused .fbfccAfterFcmp
    else withFpu s (.next (branchState s always annul taken disp22)))

/-- `fba` (R292): always taken. -/
def execFba (annul : Bool) (disp22 : BitVec 22) (s : State) : Result :=
  floatBranchTo s true annul true disp22

/-- `fbn` (R293): never taken. -/
def execFbn (annul : Bool) (disp22 : BitVec 22) (s : State) : Result :=
  floatBranchTo s false annul false disp22

/-- `fbu` (R294): taken when fcc is U. -/
def execFbu (annul : Bool) (disp22 : BitVec 22) (s : State) : Result :=
  floatBranchTo s false annul (s.fcc == .unordered) disp22

/-- `fbg` (R295): taken when fcc is G. -/
def execFbg (annul : Bool) (disp22 : BitVec 22) (s : State) : Result :=
  floatBranchTo s false annul (s.fcc == .greater) disp22

/-- `fbug` (R296): taken when fcc is G or U. -/
def execFbug (annul : Bool) (disp22 : BitVec 22) (s : State) : Result :=
  floatBranchTo s false annul (s.fcc == .greater || s.fcc == .unordered) disp22

/-- `fbl` (R297): taken when fcc is L. -/
def execFbl (annul : Bool) (disp22 : BitVec 22) (s : State) : Result :=
  floatBranchTo s false annul (s.fcc == .less) disp22

/-- `fbul` (R298): taken when fcc is L or U. -/
def execFbul (annul : Bool) (disp22 : BitVec 22) (s : State) : Result :=
  floatBranchTo s false annul (s.fcc == .less || s.fcc == .unordered) disp22

/-- `fblg` (R299): taken when fcc is L or G. -/
def execFblg (annul : Bool) (disp22 : BitVec 22) (s : State) : Result :=
  floatBranchTo s false annul (s.fcc == .less || s.fcc == .greater) disp22

/-- `fbne` (R300): taken when fcc is L, G, U. -/
def execFbne (annul : Bool) (disp22 : BitVec 22) (s : State) : Result :=
  floatBranchTo s false annul (s.fcc != .equal) disp22

/-- `fbe` (R301): taken when fcc is E. -/
def execFbe (annul : Bool) (disp22 : BitVec 22) (s : State) : Result :=
  floatBranchTo s false annul (s.fcc == .equal) disp22

/-- `fbue` (R302): taken when fcc is E or U. -/
def execFbue (annul : Bool) (disp22 : BitVec 22) (s : State) : Result :=
  floatBranchTo s false annul (s.fcc == .equal || s.fcc == .unordered) disp22

/-- `fbge` (R303): taken when fcc is E or G. -/
def execFbge (annul : Bool) (disp22 : BitVec 22) (s : State) : Result :=
  floatBranchTo s false annul (s.fcc == .equal || s.fcc == .greater) disp22

/-- `fbuge` (R304): taken when fcc is E, G, U. -/
def execFbuge (annul : Bool) (disp22 : BitVec 22) (s : State) : Result :=
  floatBranchTo s false annul (s.fcc != .less) disp22

/-- `fble` (R305): taken when fcc is E or L. -/
def execFble (annul : Bool) (disp22 : BitVec 22) (s : State) : Result :=
  floatBranchTo s false annul (s.fcc == .equal || s.fcc == .less) disp22

/-- `fbule` (R306): taken when fcc is E, L, U. -/
def execFbule (annul : Bool) (disp22 : BitVec 22) (s : State) : Result :=
  floatBranchTo s false annul (s.fcc != .greater) disp22

/-- `fbo` (R307): taken when fcc is E, L, G. -/
def execFbo (annul : Bool) (disp22 : BitVec 22) (s : State) : Result :=
  floatBranchTo s false annul (s.fcc != .unordered) disp22

end Sys2Proof.Machine
end

