-- ==== Sys2Proof/Machine/LoadStore.lean ====
section
/-! DEFINITION. The ten integer loads and stores (spec 46_load_store.md R230 to R240): `ea = r[rs1] + op2`; the checks stand in
the order of R230; the address is computed before `rd` is written. -/

namespace Sys2Proof.Machine

/-- A load of `size` bytes whose value `v` goes to `r[rd]` (R230). -/
def loadInto (s : State) (ea : Word) (size : Nat) (rd : Reg) (v : Word) : Result :=
  withAccess s ea size (.next (s.setReg rd v).advance)

/-- A store of `size` bytes that makes memory `m` (R230). -/
def storeTo (s : State) (ea : Word) (size : Nat) (m : Memory) : Result := withStore s ea size (.next { s with mem := m }.advance)

/-- An even `rd`, or illegal_instruction is raised with the instruction's word (R236, R240, R323). -/
def withEvenRd (s : State) (i : Instr) (rd : Reg) (k : Result) : Result :=
  if isEven rd then k else raise (fun pc npc => .illegalInstruction pc npc (encode i)) s

/-- `ldsb` (R231): `r[rd] <- sext_32(MemRead(ea, 1))`. -/
def execLdsb (rs1 : Reg) (src2 : RegOrImm) (rd : Reg) (s : State) : Result :=
  loadInto s (s.ea rs1 src2) 1 rd ((s.mem.readByte (s.ea rs1 src2)).signExtend 32)

/-- `ldsh` (R232): `r[rd] <- sext_32(MemRead(ea, 2))`. -/
def execLdsh (rs1 : Reg) (src2 : RegOrImm) (rd : Reg) (s : State) : Result :=
  loadInto s (s.ea rs1 src2) 2 rd ((s.mem.readHalf (s.ea rs1 src2)).signExtend 32)

/-- `ldub` (R233): `r[rd] <- zext_32(MemRead(ea, 1))`. -/
def execLdub (rs1 : Reg) (src2 : RegOrImm) (rd : Reg) (s : State) : Result :=
  loadInto s (s.ea rs1 src2) 1 rd ((s.mem.readByte (s.ea rs1 src2)).setWidth 32)

/-- `lduh` (R234): `r[rd] <- zext_32(MemRead(ea, 2))`. -/
def execLduh (rs1 : Reg) (src2 : RegOrImm) (rd : Reg) (s : State) : Result :=
  loadInto s (s.ea rs1 src2) 2 rd ((s.mem.readHalf (s.ea rs1 src2)).setWidth 32)

/-- `ld` (R235): `r[rd] <- MemRead(ea, 4)`. -/
def execLd (rs1 : Reg) (src2 : RegOrImm) (rd : Reg) (s : State) : Result :=
  loadInto s (s.ea rs1 src2) 4 rd (s.mem.readWord (s.ea rs1 src2))

/-- `ldd` (R236): the word at `ea` to `r[rd]`, the word at `ea + 4` to `r[rd + 1]`; odd `rd` traps. -/
def execLdd (rs1 : Reg) (src2 : RegOrImm) (rd : Reg) (s : State) : Result :=
  let v := s.mem.readDword (s.ea rs1 src2)
  withEvenRd s (.ldd rs1 src2 rd) rd
    (withAccess s (s.ea rs1 src2) 8 (.next ((s.setReg rd (highWord v)).setReg (rd + 1) (lowWord v)).advance))

/-- `stb` (R237): `MemWrite(ea, 1, r[rd][7:0])`. -/
def execStb (rs1 : Reg) (src2 : RegOrImm) (rd : Reg) (s : State) : Result :=
  storeTo s (s.ea rs1 src2) 1 (s.mem.writeByte (s.ea rs1 src2) ((s.reg rd).extractLsb' 0 8))

/-- `sth` (R238): `MemWrite(ea, 2, r[rd][15:0])`. -/
def execSth (rs1 : Reg) (src2 : RegOrImm) (rd : Reg) (s : State) : Result :=
  storeTo s (s.ea rs1 src2) 2 (s.mem.writeHalf (s.ea rs1 src2) ((s.reg rd).extractLsb' 0 16))

/-- `st` (R239): `MemWrite(ea, 4, r[rd])`. -/
def execSt (rs1 : Reg) (src2 : RegOrImm) (rd : Reg) (s : State) : Result :=
  storeTo s (s.ea rs1 src2) 4 (s.mem.writeWord (s.ea rs1 src2) (s.reg rd))

/-- `std` (R240): `MemWrite(ea, 8, r[rd] ‖ r[rd + 1])`; odd `rd` traps. -/
def execStd (rs1 : Reg) (src2 : RegOrImm) (rd : Reg) (s : State) : Result :=
  withEvenRd s (.std rs1 src2 rd) rd
    (storeTo s (s.ea rs1 src2) 8 (s.mem.writeDword (s.ea rs1 src2) (joinWords (s.reg rd) (s.reg (rd + 1)))))

end Sys2Proof.Machine
end

