-- ==== Sys2Proof/Machine/Flags.lean ====
section
/-! DEFINITION. The condition codes after each kind of `cc` instruction (spec 10_state.md R31, 40_arithmetic.md R133 to R135,
41_logical.md R140), as relations between the exact integer result and its 32 bits. -/

namespace Sys2Proof.Machine

/-- The exact signed result lies outside -2^31 to 2^31 - 1 (R133). -/
def outOfSignedRange (x : Int) : Bool := decide (x < -2 ^ 31) || decide (2 ^ 31 - 1 < x)

/-- `N = res[31]`, `Z = (res = 0)`, with the given V and C (R31). -/
def iccOf (res : Word) (v c : Bool) : Icc := ⟨res.getLsbD 31, decide (res = 0), v, c⟩

/-- `addcc`: V is signed overflow, C the carry out of bit 31 (R121, R133). -/
def iccAdd (a b : Word) : Icc :=
  iccOf (a + b) (outOfSignedRange (a.toInt + b.toInt)) (decide (2 ^ 32 ≤ a.toNat + b.toNat))

/-- `subcc`: V is signed overflow, C the borrow (R123, R133). -/
def iccSub (a b : Word) : Icc :=
  iccOf (a - b) (outOfSignedRange (a.toInt - b.toInt)) (decide (a.toNat < b.toNat))

/-- Logical and multiply `cc`: V = 0, C = 0 (R134, R140). -/
def iccLogic (res : Word) : Icc := iccOf res false false

/-- Divide `cc`: V as the divide reports overflow, C = 0 (R135). -/
def iccDiv (res : Word) (overflow : Bool) : Icc := iccOf res overflow false

end Sys2Proof.Machine
end

