-- ==== Sys2Proof/Machine/Arithmetic.lean ====
section
/-! DEFINITION. The twelve arithmetic instructions (spec 40_arithmetic.md R120 to R135): `a = r[rs1]`, `b = op2`; operands are
read before the result is written (R132). -/

namespace Sys2Proof.Machine

/-- `r[rd] <- res`, and the advance of R29: how an instruction without `cc` ends (R132, R140). -/
def writeResult (s : State) (rd : Reg) (res : Word) : Result := .next (s.setReg rd res).advance

/-- `r[rd] <- res` with all four condition codes written: how a `cc` instruction ends (R31, R132, R140). -/
def writeResultCc (s : State) (rd : Reg) (res : Word) (icc : Icc) : Result :=
  .next { (s.setReg rd res).advance with icc := icc }

/-- `P = u(a) * u(b)`, 64 bits (R134). -/
def umulProduct (a b : Word) : Dword := BitVec.ofNat 64 (a.toNat * b.toNat)

/-- `P = s(a) * s(b)` as a 64-bit two's complement pattern (R134). -/
def smulProduct (a b : Word) : Dword := BitVec.ofInt 64 (a.toInt * b.toInt)

/-- The exact quotient of `udiv`: `floor(u(Y ‖ a) / u(b))` (R135). -/
def udivQuotient (y a b : Word) : Nat := (joinWords y a).toNat / b.toNat

/-- The result of `udiv`, clamped to 0xFFFFFFFF (R128, R135). -/
def udivResult (y a b : Word) : Word :=
  if 2 ^ 32 - 1 < udivQuotient y a b then 0xFFFFFFFF else BitVec.ofNat 32 (udivQuotient y a b)

/-- `udivcc` reports overflow: the quotient exceeds 2^32 - 1 (R129, R135). -/
def udivOverflow (y a b : Word) : Bool := decide (2 ^ 32 - 1 < udivQuotient y a b)

/-- The exact quotient of `sdiv`: `trunc(s64(Y ‖ a) / s(b))`, rounded toward zero (R135). -/
def sdivQuotient (y a b : Word) : Int := (joinWords y a).toInt.tdiv b.toInt

/-- The result of `sdiv`, clamped to 0x7FFFFFFF or 0x80000000 (R130, R135). -/
def sdivResult (y a b : Word) : Word :=
  if 2 ^ 31 - 1 < sdivQuotient y a b then 0x7FFFFFFF
  else if sdivQuotient y a b < -2 ^ 31 then 0x80000000
  else BitVec.ofInt 32 (sdivQuotient y a b)

/-- The exact quotient lies strictly between -2^31 - 1 and -2^31: it truncates to -2^31, and whether overflow is reported is left
open (R135; 93_implementation_defined.md U7). -/
def sdivAtBoundary (y a b : Word) : Bool :=
  decide (sdivQuotient y a b = -2 ^ 31) && decide (sdivQuotient y a b * b.toInt ≠ (joinWords y a).toInt)

/-- `sdivcc` reports overflow: the quotient was clamped (R131, R135); a free value at the boundary of U7 (log 9). -/
def sdivOverflow (y a b : Word) : Bool :=
  if sdivAtBoundary y a b then Config.sdivBoundaryOverflow (joinWords y a) b
  else outOfSignedRange (sdivQuotient y a b)

/-- A divide goes on when the divisor is not 0; else division_by_zero is raised (R135, R330). -/
def withDivisor (s : State) (b : Word) (k : Result) : Result := if b = 0 then raise .divisionByZero s else k

/-- `add` (R120): `r[rd] <- (a + b) mod 2^32`. -/
def execAdd (rs1 : Reg) (src2 : RegOrImm) (rd : Reg) (s : State) : Result :=
  writeResult s rd (s.reg rs1 + s.op2 src2)

/-- `addcc` (R121): as `add`, and the condition codes of R133. -/
def execAddcc (rs1 : Reg) (src2 : RegOrImm) (rd : Reg) (s : State) : Result :=
  writeResultCc s rd (s.reg rs1 + s.op2 src2) (iccAdd (s.reg rs1) (s.op2 src2))

/-- `sub` (R122): `r[rd] <- (a - b) mod 2^32`. -/
def execSub (rs1 : Reg) (src2 : RegOrImm) (rd : Reg) (s : State) : Result :=
  writeResult s rd (s.reg rs1 - s.op2 src2)

/-- `subcc` (R123): as `sub`, and the condition codes of R133, C the borrow. -/
def execSubcc (rs1 : Reg) (src2 : RegOrImm) (rd : Reg) (s : State) : Result :=
  writeResultCc s rd (s.reg rs1 - s.op2 src2) (iccSub (s.reg rs1) (s.op2 src2))

/-- `umul` (R124): `r[rd] <- P[31:0]`, `Y <- P[63:32]`. -/
def execUmul (rs1 : Reg) (src2 : RegOrImm) (rd : Reg) (s : State) : Result :=
  let p := umulProduct (s.reg rs1) (s.op2 src2)
  writeResult { s with y := highWord p } rd (lowWord p)

/-- `umulcc` (R125): as `umul`; N and Z from the low word, V = C = 0. -/
def execUmulcc (rs1 : Reg) (src2 : RegOrImm) (rd : Reg) (s : State) : Result :=
  let p := umulProduct (s.reg rs1) (s.op2 src2)
  writeResultCc { s with y := highWord p } rd (lowWord p) (iccLogic (lowWord p))

/-- `smul` (R126): `r[rd] <- P[31:0]`, `Y <- P[63:32]`. -/
def execSmul (rs1 : Reg) (src2 : RegOrImm) (rd : Reg) (s : State) : Result :=
  let p := smulProduct (s.reg rs1) (s.op2 src2)
  writeResult { s with y := highWord p } rd (lowWord p)

/-- `smulcc` (R127): as `smul`; N and Z from the low word, V = C = 0. -/
def execSmulcc (rs1 : Reg) (src2 : RegOrImm) (rd : Reg) (s : State) : Result :=
  let p := smulProduct (s.reg rs1) (s.op2 src2)
  writeResultCc { s with y := highWord p } rd (lowWord p) (iccLogic (lowWord p))

/-- `udiv` (R128): `(Y ‖ a) / b`, clamped; a zero divisor traps. -/
def execUdiv (rs1 : Reg) (src2 : RegOrImm) (rd : Reg) (s : State) : Result :=
  withDivisor s (s.op2 src2) (writeResult s rd (udivResult s.y (s.reg rs1) (s.op2 src2)))

/-- `udivcc` (R129): as `udiv`; V reports overflow, C = 0. -/
def execUdivcc (rs1 : Reg) (src2 : RegOrImm) (rd : Reg) (s : State) : Result :=
  withDivisor s (s.op2 src2)
    (writeResultCc s rd (udivResult s.y (s.reg rs1) (s.op2 src2))
      (iccDiv (udivResult s.y (s.reg rs1) (s.op2 src2)) (udivOverflow s.y (s.reg rs1) (s.op2 src2))))

/-- `sdiv` (R130): `(Y ‖ a) / b`, clamped; a zero divisor traps. -/
def execSdiv (rs1 : Reg) (src2 : RegOrImm) (rd : Reg) (s : State) : Result :=
  withDivisor s (s.op2 src2) (writeResult s rd (sdivResult s.y (s.reg rs1) (s.op2 src2)))

/-- `sdivcc` (R131): as `sdiv`; V reports overflow, C = 0. -/
def execSdivcc (rs1 : Reg) (src2 : RegOrImm) (rd : Reg) (s : State) : Result :=
  withDivisor s (s.op2 src2)
    (writeResultCc s rd (sdivResult s.y (s.reg rs1) (s.op2 src2))
      (iccDiv (sdivResult s.y (s.reg rs1) (s.op2 src2)) (sdivOverflow s.y (s.reg rs1) (s.op2 src2))))

end Sys2Proof.Machine
end

