-- ==== Sys2Proof/Machine/Logical.lean ====
section
/-! DEFINITION. The twelve logical instructions (spec 41_logical.md R140 to R152): `a = r[rs1]`, `b = op2`, sign-extended when
immediate. The `cc` forms write N and Z from the result and clear V and C (R140). -/

namespace Sys2Proof.Machine

/-- `and` (R141): `r[rd] <- a and b`. -/
def execAnd (rs1 : Reg) (src2 : RegOrImm) (rd : Reg) (s : State) : Result :=
  writeResult s rd (s.reg rs1 &&& s.op2 src2)

/-- `andcc` (R142): as `and`, with N, Z from the result, V = C = 0. -/
def execAndcc (rs1 : Reg) (src2 : RegOrImm) (rd : Reg) (s : State) : Result :=
  writeResultCc s rd (s.reg rs1 &&& s.op2 src2) (iccLogic (s.reg rs1 &&& s.op2 src2))

/-- `andn` (R143): `r[rd] <- a and (not b)`. -/
def execAndn (rs1 : Reg) (src2 : RegOrImm) (rd : Reg) (s : State) : Result :=
  writeResult s rd (s.reg rs1 &&& ~~~s.op2 src2)

/-- `andncc` (R144): as `andn`, with N, Z from the result, V = C = 0. -/
def execAndncc (rs1 : Reg) (src2 : RegOrImm) (rd : Reg) (s : State) : Result :=
  writeResultCc s rd (s.reg rs1 &&& ~~~s.op2 src2) (iccLogic (s.reg rs1 &&& ~~~s.op2 src2))

/-- `or` (R145): `r[rd] <- a or b`. -/
def execOr (rs1 : Reg) (src2 : RegOrImm) (rd : Reg) (s : State) : Result :=
  writeResult s rd (s.reg rs1 ||| s.op2 src2)

/-- `orcc` (R146): as `or`, with N, Z from the result, V = C = 0. -/
def execOrcc (rs1 : Reg) (src2 : RegOrImm) (rd : Reg) (s : State) : Result :=
  writeResultCc s rd (s.reg rs1 ||| s.op2 src2) (iccLogic (s.reg rs1 ||| s.op2 src2))

/-- `orn` (R147): `r[rd] <- a or (not b)`. -/
def execOrn (rs1 : Reg) (src2 : RegOrImm) (rd : Reg) (s : State) : Result :=
  writeResult s rd (s.reg rs1 ||| ~~~s.op2 src2)

/-- `orncc` (R148): as `orn`, with N, Z from the result, V = C = 0. -/
def execOrncc (rs1 : Reg) (src2 : RegOrImm) (rd : Reg) (s : State) : Result :=
  writeResultCc s rd (s.reg rs1 ||| ~~~s.op2 src2) (iccLogic (s.reg rs1 ||| ~~~s.op2 src2))

/-- `xor` (R149): `r[rd] <- a xor b`. -/
def execXor (rs1 : Reg) (src2 : RegOrImm) (rd : Reg) (s : State) : Result :=
  writeResult s rd (s.reg rs1 ^^^ s.op2 src2)

/-- `xorcc` (R150): as `xor`, with N, Z from the result, V = C = 0. -/
def execXorcc (rs1 : Reg) (src2 : RegOrImm) (rd : Reg) (s : State) : Result :=
  writeResultCc s rd (s.reg rs1 ^^^ s.op2 src2) (iccLogic (s.reg rs1 ^^^ s.op2 src2))

/-- `xnor` (R151): `r[rd] <- a xor (not b)`. -/
def execXnor (rs1 : Reg) (src2 : RegOrImm) (rd : Reg) (s : State) : Result :=
  writeResult s rd (s.reg rs1 ^^^ ~~~s.op2 src2)

/-- `xnorcc` (R152): as `xnor`, with N, Z from the result, V = C = 0. -/
def execXnorcc (rs1 : Reg) (src2 : RegOrImm) (rd : Reg) (s : State) : Result :=
  writeResultCc s rd (s.reg rs1 ^^^ ~~~s.op2 src2) (iccLogic (s.reg rs1 ^^^ ~~~s.op2 src2))

end Sys2Proof.Machine
end

