-- ==== Sys2Proof/Machine/Miscellaneous.lean ====
section
/-! DEFINITION. `nop` and `sethi` (spec 43_miscellaneous.md R170, R171). -/

namespace Sys2Proof.Machine

/-- `nop` (R171): nothing but the advance of pc and npc. -/
def execNop (s : State) : Result := .next s.advance

/-- `sethi` (R170): `r[rd] <- imm22 ‖ 0000000000`. -/
def execSethi (imm22 : BitVec 22) (rd : Reg) (s : State) : Result := writeResult s rd (imm22 ++ 0#10)

end Sys2Proof.Machine
end

