-- ==== Sys2Proof/Machine/Shift.lean ====
section
/-! DEFINITION. The three shifts (spec 42_shifts.md R160 to R163): the count is the five low-order bits of `op2`; no condition code is
written. -/

namespace Sys2Proof.Machine

/-- `sll` (R161): `r[rd] <- (a << n) mod 2^32`. -/
def execSll (rs1 : Reg) (count : ShiftCount) (rd : Reg) (s : State) : Result :=
  writeResult s rd (s.reg rs1 <<< s.shiftCount count)

/-- `srl` (R162): `r[rd] <- a >>u n`, zero fill. -/
def execSrl (rs1 : Reg) (count : ShiftCount) (rd : Reg) (s : State) : Result :=
  writeResult s rd (s.reg rs1 >>> s.shiftCount count)

/-- `sra` (R163): `r[rd] <- a >>s n`, copies of the sign enter. -/
def execSra (rs1 : Reg) (count : ShiftCount) (rd : Reg) (s : State) : Result :=
  writeResult s rd ((s.reg rs1).sshiftRight (s.shiftCount count))

end Sys2Proof.Machine
end

