-- ==== Sys2Proof/Machine/Dispatch.lean ====
section
/-! DEFINITION. Which meaning each instruction has: one arm per constructor of Instr. -/

namespace Sys2Proof.Machine

def exec (i : Instr) (s : State) : Host.Outcome State Fault Refusal :=
  match i with
  | .add rs1 src2 rd => Sys2Proof.Machine.execAdd rs1 src2 rd s
  | .addcc rs1 src2 rd => Sys2Proof.Machine.execAddcc rs1 src2 rd s
  | .sub rs1 src2 rd => Sys2Proof.Machine.execSub rs1 src2 rd s
  | .subcc rs1 src2 rd => Sys2Proof.Machine.execSubcc rs1 src2 rd s
  | .umul rs1 src2 rd => Sys2Proof.Machine.execUmul rs1 src2 rd s
  | .umulcc rs1 src2 rd => Sys2Proof.Machine.execUmulcc rs1 src2 rd s
  | .smul rs1 src2 rd => Sys2Proof.Machine.execSmul rs1 src2 rd s
  | .smulcc rs1 src2 rd => Sys2Proof.Machine.execSmulcc rs1 src2 rd s
  | .udiv rs1 src2 rd => Sys2Proof.Machine.execUdiv rs1 src2 rd s
  | .udivcc rs1 src2 rd => Sys2Proof.Machine.execUdivcc rs1 src2 rd s
  | .sdiv rs1 src2 rd => Sys2Proof.Machine.execSdiv rs1 src2 rd s
  | .sdivcc rs1 src2 rd => Sys2Proof.Machine.execSdivcc rs1 src2 rd s
  | .and rs1 src2 rd => Sys2Proof.Machine.execAnd rs1 src2 rd s
  | .andcc rs1 src2 rd => Sys2Proof.Machine.execAndcc rs1 src2 rd s
  | .andn rs1 src2 rd => Sys2Proof.Machine.execAndn rs1 src2 rd s
  | .andncc rs1 src2 rd => Sys2Proof.Machine.execAndncc rs1 src2 rd s
  | .or rs1 src2 rd => Sys2Proof.Machine.execOr rs1 src2 rd s
  | .orcc rs1 src2 rd => Sys2Proof.Machine.execOrcc rs1 src2 rd s
  | .orn rs1 src2 rd => Sys2Proof.Machine.execOrn rs1 src2 rd s
  | .orncc rs1 src2 rd => Sys2Proof.Machine.execOrncc rs1 src2 rd s
  | .xor rs1 src2 rd => Sys2Proof.Machine.execXor rs1 src2 rd s
  | .xorcc rs1 src2 rd => Sys2Proof.Machine.execXorcc rs1 src2 rd s
  | .xnor rs1 src2 rd => Sys2Proof.Machine.execXnor rs1 src2 rd s
  | .xnorcc rs1 src2 rd => Sys2Proof.Machine.execXnorcc rs1 src2 rd s
  | .sll rs1 count rd => Sys2Proof.Machine.execSll rs1 count rd s
  | .srl rs1 count rd => Sys2Proof.Machine.execSrl rs1 count rd s
  | .sra rs1 count rd => Sys2Proof.Machine.execSra rs1 count rd s
  | .nop => Sys2Proof.Machine.execNop s
  | .sethi imm22 rd => Sys2Proof.Machine.execSethi imm22 rd s
  | .save rs1 src2 rd => Sys2Proof.Machine.execSave rs1 src2 rd s
  | .restore rs1 src2 rd => Sys2Proof.Machine.execRestore rs1 src2 rd s
  | .call disp30 => Sys2Proof.Machine.execCall disp30 s
  | .jmpl rs1 src2 rd => Sys2Proof.Machine.execJmpl rs1 src2 rd s
  | .ba annul disp22 => Sys2Proof.Machine.execBa annul disp22 s
  | .bn annul disp22 => Sys2Proof.Machine.execBn annul disp22 s
  | .bne annul disp22 => Sys2Proof.Machine.execBne annul disp22 s
  | .be annul disp22 => Sys2Proof.Machine.execBe annul disp22 s
  | .bg annul disp22 => Sys2Proof.Machine.execBg annul disp22 s
  | .ble annul disp22 => Sys2Proof.Machine.execBle annul disp22 s
  | .bge annul disp22 => Sys2Proof.Machine.execBge annul disp22 s
  | .bl annul disp22 => Sys2Proof.Machine.execBl annul disp22 s
  | .bgu annul disp22 => Sys2Proof.Machine.execBgu annul disp22 s
  | .bleu annul disp22 => Sys2Proof.Machine.execBleu annul disp22 s
  | .bcc annul disp22 => Sys2Proof.Machine.execBcc annul disp22 s
  | .bcs annul disp22 => Sys2Proof.Machine.execBcs annul disp22 s
  | .bpos annul disp22 => Sys2Proof.Machine.execBpos annul disp22 s
  | .bneg annul disp22 => Sys2Proof.Machine.execBneg annul disp22 s
  | .bvc annul disp22 => Sys2Proof.Machine.execBvc annul disp22 s
  | .bvs annul disp22 => Sys2Proof.Machine.execBvs annul disp22 s
  | .ldsb rs1 src2 rd => Sys2Proof.Machine.execLdsb rs1 src2 rd s
  | .ldsh rs1 src2 rd => Sys2Proof.Machine.execLdsh rs1 src2 rd s
  | .ldub rs1 src2 rd => Sys2Proof.Machine.execLdub rs1 src2 rd s
  | .lduh rs1 src2 rd => Sys2Proof.Machine.execLduh rs1 src2 rd s
  | .ld rs1 src2 rd => Sys2Proof.Machine.execLd rs1 src2 rd s
  | .ldd rs1 src2 rd => Sys2Proof.Machine.execLdd rs1 src2 rd s
  | .stb rs1 src2 rd => Sys2Proof.Machine.execStb rs1 src2 rd s
  | .sth rs1 src2 rd => Sys2Proof.Machine.execSth rs1 src2 rd s
  | .st rs1 src2 rd => Sys2Proof.Machine.execSt rs1 src2 rd s
  | .std rs1 src2 rd => Sys2Proof.Machine.execStd rs1 src2 rd s
  | .faddd rs1 rs2 rd => Sys2Proof.Machine.execFaddd rs1 rs2 rd s
  | .fsubd rs1 rs2 rd => Sys2Proof.Machine.execFsubd rs1 rs2 rd s
  | .fmuld rs1 rs2 rd => Sys2Proof.Machine.execFmuld rs1 rs2 rd s
  | .fdivd rs1 rs2 rd => Sys2Proof.Machine.execFdivd rs1 rs2 rd s
  | .fmovd rs2 rd => Sys2Proof.Machine.execFmovd rs2 rd s
  | .fnegd rs2 rd => Sys2Proof.Machine.execFnegd rs2 rd s
  | .fabsd rs2 rd => Sys2Proof.Machine.execFabsd rs2 rd s
  | .fitod rs2 rd => Sys2Proof.Machine.execFitod rs2 rd s
  | .fdtoi rs2 rd => Sys2Proof.Machine.execFdtoi rs2 rd s
  | .stdf rs1 src2 rd => Sys2Proof.Machine.execStdf rs1 src2 rd s
  | .lddf rs1 src2 rd => Sys2Proof.Machine.execLddf rs1 src2 rd s
  | .fcmpd rs1 rs2 => Sys2Proof.Machine.execFcmpd rs1 rs2 s
  | .fba annul disp22 => Sys2Proof.Machine.execFba annul disp22 s
  | .fbn annul disp22 => Sys2Proof.Machine.execFbn annul disp22 s
  | .fbu annul disp22 => Sys2Proof.Machine.execFbu annul disp22 s
  | .fbg annul disp22 => Sys2Proof.Machine.execFbg annul disp22 s
  | .fbug annul disp22 => Sys2Proof.Machine.execFbug annul disp22 s
  | .fbl annul disp22 => Sys2Proof.Machine.execFbl annul disp22 s
  | .fbul annul disp22 => Sys2Proof.Machine.execFbul annul disp22 s
  | .fblg annul disp22 => Sys2Proof.Machine.execFblg annul disp22 s
  | .fbne annul disp22 => Sys2Proof.Machine.execFbne annul disp22 s
  | .fbe annul disp22 => Sys2Proof.Machine.execFbe annul disp22 s
  | .fbue annul disp22 => Sys2Proof.Machine.execFbue annul disp22 s
  | .fbge annul disp22 => Sys2Proof.Machine.execFbge annul disp22 s
  | .fbuge annul disp22 => Sys2Proof.Machine.execFbuge annul disp22 s
  | .fble annul disp22 => Sys2Proof.Machine.execFble annul disp22 s
  | .fbule annul disp22 => Sys2Proof.Machine.execFbule annul disp22 s
  | .fbo annul disp22 => Sys2Proof.Machine.execFbo annul disp22 s

end Sys2Proof.Machine
end

