-- ==== Sys2Proof/Machine/Fetch.lean ====
section
/-! DEFINITION. Fetching an instruction (spec 20_memory.md R55, 60_exceptions.md R322), the outcome of a word that is rejected
(30_encoding.md R97 to R99), and placing a word where the next fetch finds it. -/

namespace Sys2Proof.Machine

/-- `MemRead(pc, 4)`: its alignment check (R54), then instruction_access_exception unless all four bytes are Mapped (R55, R322). The
pc is always a multiple of 4 in a run (R27), so the first never fails there (log 17). -/
def fetchWord (s : State) : Except Fault Word :=
  if s.pc.toNat % 4 ≠ 0 then .error (.memAddressNotAligned s.pc s.npc s.pc)
  else if allBytes s.mapped s.pc 4 then .ok (s.mem.readWord s.pc)
  else .error (.instructionAccessException s.pc s.npc)

/-- Running the fetched word `w` with the meaning `run` of instructions: a rejected word faults or is refused by name (R98, R99, R331).
An unassigned FPop is an FPop, so fp_disabled comes first (R324). -/
def runWord (run : Instr → State → Result) (w : Word) (s : State) : Result :=
  match decode w with
  | .instr i => run i s
  | .illegal => raise (fun pc npc => .illegalInstruction pc npc w) s
  | .unimplementedFPop => withFpu s (raise (fun pc npc => .fpException pc npc .unimplementedFPop) s)
  | .reservedFieldNonzero => .refused .reservedFieldNonzero
  | .outOfSubset name => .refused (.outOfSubset name)

/-- `s` with the instruction word `w` stored at pc. Where pc is not Mapped it is made so, and where pc is HALT_PC the end of the run is
moved past it, since nothing is fetched there otherwise (log 21). -/
def placeWord (s : State) (w : Word) : State :=
  { s with
    mem := s.mem.writeWord s.pc w
    params :=
      { s.params with
        mapped := if allBytes s.mapped s.pc 4 then s.params.mapped else ⟨s.pc.toNat, 4⟩ :: s.params.mapped
        haltPc := if s.pc = s.params.haltPc then s.pc + 4 else s.params.haltPc } }

end Sys2Proof.Machine
end

