-- ==== Sys2Proof/Machine/Step.lean ====
section
/-! DEFINITION. One step of the machine (spec 00_scope.md R13 to R15). -/

namespace Sys2Proof.Machine

/-- R13: fetch the word at pc, decode it, and perform its rule. At HALT_PC the run has ended and nothing is fetched (R15). -/
def step (s : State) : Host.Outcome State Fault Refusal :=
  if s.pc = s.params.haltPc then .refused .runEnded
  else
    match fetchWord s with
    | .error f => .fault f
    | .ok w => runWord exec w s

/-- `s` with the instruction whose `nbits` bits are `w` stored where `step` fetches its next instruction. -/
def State.withFetchWord (s : State) (nbits w : Nat) : State := placeWord s (BitVec.ofNat 32 (w % 2 ^ nbits))

end Sys2Proof.Machine
end

