-- ==== Sys2Proof/Safety.lean ====
section
/-! DEFINITION. What counts as a completed and a safe run (spec 00_scope.md R14, R15), the invariant of the machine's states, and the
terms the statements use to say what an instruction does and what it leaves alone. -/

namespace Sys2Proof.Machine

/-! ## Runs and states -/

/-- The run has ended normally: pc = HALT_PC at the start of a step (R15). -/
def State.ended (s : State) : Prop := s.pc = s.params.haltPc

/-- `k` steps from `s` all have a next state, and the last is `t`: a run that meets no fault and no refusal (R14). -/
def runsTo (k : Nat) (s t : State) : Prop := Sys2Proof.core.run k s = .next t

/-- A run of `k` steps from `s` that ends normally in `t` (R15). -/
def completes (k : Nat) (s t : State) : Prop := runsTo k s t ∧ t.ended

/-- The floating-point unit as the spec fixes it: enabled (D11), rounding to nearest, standard mode, no IEEE trap enabled (D12). -/
structure State.standardFpu (s : State) : Prop where
  enabled : s.psr.ef = true
  nearest : s.fsr.rd = .nearestEven
  standard : s.fsr.ns = false
  untrapped : s.fsr.tem = .none

/-- What holds of every state of a run: memory in canonical form, pc and npc multiples of 4 (R27), CWP below NWINDOWS (R24), the WIM
bits of windows that do not exist zero (R25), the floating queue empty (R41). -/
structure State.Inv (s : State) : Prop where
  memory : s.mem.wf
  pc_aligned : s.pc.toNat % 4 = 0
  npc_aligned : s.npc.toNat % 4 = 0
  cwp_lt : s.cwp.toNat < s.params.nwindows.val
  wim_high : ∀ i, s.params.nwindows.val ≤ i → s.wim.getLsbD i = false
  fq_empty : s.fq = []

/-- The next step fetches the word `w`: pc is not HALT_PC (R15), is a multiple of 4, its four bytes are Mapped, and `w` is those bytes,
the one at pc the most significant (R55). -/
structure State.fetches (s : State) (w : Word) : Prop where
  running : s.pc ≠ s.params.haltPc
  aligned : s.pc.toNat % 4 = 0
  mapped : ∀ k < 4, s.mapped (s.pc + BitVec.ofNat 32 k) = true
  word : w = wordOfBytes (s.mem.readByte s.pc) (s.mem.readByte (s.pc + 1)) (s.mem.readByte (s.pc + 2)) (s.mem.readByte (s.pc + 3))

/-- Every byte of the `size` from `a` up is Mapped, and `a` is a multiple of `size`: what a load needs (R54, R59). -/
structure State.loadable (s : State) (a : Word) (size : Nat) : Prop where
  aligned : a.toNat % size = 0
  mapped : ∀ k < size, s.mapped (a + BitVec.ofNat 32 k) = true

/-- `MemRead(a, n)` as an unsigned number: the byte at `a` is the most significant (R52). -/
def State.bigEndian (s : State) (a : Word) : Nat → Nat
  | 0 => 0
  | n + 1 => s.bigEndian a n * 256 + (s.mem.readByte (a + BitVec.ofNat 32 n)).toNat

/-- What a store needs: as a load, and no byte of it is Text (R64). -/
structure State.storable (s : State) (a : Word) (size : Nat) : Prop where
  loadable : s.loadable a size
  notText : ∀ k < size, s.isText (a + BitVec.ofNat 32 k) = false

/-! ## Launch -/

/-- What must hold of a launch before the rules of the spec apply, for a program that nests `saves` saves and whose frames need `below`
bytes under `%sp` (R6, R24, R25, R361, R362). Item (3) of R362, EF = 1 and RD = TEM = 0, and item (5), the return linkage in `%o7`,
hold of every launch by construction; items (6) and (7) ask nothing. -/
structure LaunchReady (l : Launch) (saves below : Nat) : Prop where
  entry_aligned : l.entryPc.toNat % 4 = 0
  halt_aligned : l.params.haltPc.toNat % 4 = 0
  /-- Item (1): the segments lie in the address space and no two overlap. -/
  fits : ∀ g ∈ l.program ++ l.data, g.base.toNat + g.bytes.length ≤ 2 ^ 32
  apart : (l.program ++ l.data).Pairwise Segment.apart
  /-- Item (2), and the ranges of CWP_INIT and WIM_INIT (R6, R25). -/
  cwp_lt : l.cwpInit.toNat < l.params.nwindows.val
  wim_high : ∀ i, l.params.nwindows.val ≤ i → l.wimInit.getLsbD i = false
  windows : ∀ k, 1 ≤ k → k ≤ saves →
    l.wimInit.getLsbD ((l.cwpInit.toNat + k * (l.params.nwindows.val - 1)) % l.params.nwindows.val) = false
  /-- Item (4) and R361: `%sp` and the stack area. -/
  sp_aligned : l.sp.toNat % 8 = 0
  stack : ∀ k < below + 96,
    (State.launch l).mapped (l.sp - BitVec.ofNat 32 below + BitVec.ofNat 32 k) = true ∧
      (State.launch l).isText (l.sp - BitVec.ofNat 32 below + BitVec.ofNat 32 k) = false

/-! ## What an instruction may change -/

/-- The parts of the state that instructions in scope write, but for pc, npc and the hidden bits (R20). -/
inductive Part
  /-- `G[1..7]` and `W`. -/
  | registers
  /-- `CWP`. -/
  | window
  | icc
  | y
  /-- `f[0..31]`. -/
  | floats
  | fcc
  /-- `cexc`, `aexc`, `ftt`. -/
  | fpStatus
  | memory
  deriving DecidableEq, Repr

/-- The two states agree in a part: for registers in every storage cell, for memory in every byte. -/
def Part.same (p : Part) (s t : State) : Prop :=
  match p with
  | .registers => ∀ c, t.readCell c = s.readCell c
  | .window => t.cwp = s.cwp
  | .icc => t.icc = s.icc
  | .y => t.y = s.y
  | .floats => ∀ n, t.freg n = s.freg n
  | .fcc => t.fcc = s.fcc
  | .fpStatus => t.cexc = s.cexc ∧ t.aexc = s.aexc ∧ t.ftt = s.ftt
  | .memory => ∀ a, t.mem.readByte a = s.mem.readByte a

/-- The two states agree in everything that no instruction in scope writes: the launch parameters, WIM, the PSR fields other than icc and
CWP, TBR, the ancillary state registers, the FSR mode fields, FQ (R20, R34, R35, R38, R41). -/
structure SameConstants (s t : State) : Prop where
  params : t.params = s.params
  wim : t.wim = s.wim
  psr : t.psr = s.psr
  tbrBase : t.tbrBase = s.tbrBase
  tbrTt : t.tbrTt = s.tbrTt
  asr : t.asr = s.asr
  fsr : t.fsr = s.fsr
  fq : t.fq = s.fq

/-- The frame: `t` differs from `s` at most in the parts listed, and in pc, npc and the hidden bits, which every instruction writes. -/
structure OnlyChanged (parts : List Part) (s t : State) : Prop where
  constants : SameConstants s t
  others : ∀ p, p ∉ parts → p.same s t

/-- pc and npc advance and both hidden bits are cleared (R29). -/
structure Advances (s t : State) : Prop where
  pc : t.pc = s.npc
  npc : t.npc = s.npc + 4
  inCondDelay : t.inCondDelay = false
  afterFcmp : t.afterFcmp = false

/-- A delayed jump: the instruction at npc is next, the target after it, and both hidden bits are cleared (R28, R182). -/
structure JumpsDelayed (target : Word) (s t : State) : Prop where
  pc : t.pc = s.npc
  npc : t.npc = target
  inCondDelay : t.inCondDelay = false
  afterFcmp : t.afterFcmp = false

/-- `r_w[n] <- v` and nothing else among the integer registers: the cell that `n` names in window `w` holds `v`, every other cell what it
held; nothing is written when `n = 0` (R21, R23). -/
def WroteRegister (w : BitVec 5) (n : Reg) (v : Word) (s t : State) : Prop :=
  ∀ c, t.readCell c = if n ≠ 0 ∧ c = s.cellIn w n then v else s.readCell c

/-- `f[n] <- v` and nothing else among the floating registers (R36). -/
def WroteFloat (n : FReg) (v : Word) (s t : State) : Prop := ∀ m, t.freg m = if m = n then v else s.freg m

/-- `D[n] <- v` and nothing else among the floating registers (R37). -/
def WroteDouble (n : FReg) (v : Dword) (s t : State) : Prop :=
  ∀ m, t.freg m = if m = n then highWord v else if m = n + 1 then lowWord v else s.freg m

/-- The `size` bytes from `a` up hold `v`, the most significant at `a`, and every other byte of memory what it held (R52). -/
structure WroteMemory (a : Word) (size : Nat) (v : BitVec (8 * size)) (s t : State) : Prop where
  stored : ∀ k < size, t.mem.readByte (a + BitVec.ofNat 32 k) = v.extractLsb' (8 * (size - 1 - k)) 8
  others : ∀ b, (∀ k < size, b ≠ a + BitVec.ofNat 32 k) → t.mem.readByte b = s.mem.readByte b

/-- The FPop status after an operation that raised the IEEE exceptions `e` (R40). -/
structure RaisedFlags (e : IeeeFlags) (s t : State) : Prop where
  cexc : t.cexc = e
  aexc : t.aexc = s.aexc.union e
  ftt : t.ftt = .none

/-- Executing `i` in `s` answers a next state, and it satisfies `P`. -/
def Answers (i : Instr) (s : State) (P : State → Prop) : Prop := ∃ t, exec i s = .next t ∧ P t

/-- The faults of a load of `size` bytes at `ea`, in their order: misaligned, then not Mapped (R54, R59, R230). -/
structure FaultsAsLoad (i : Instr) (s : State) (ea : Word) (size : Nat) : Prop where
  misaligned : ea.toNat % size ≠ 0 → exec i s = .fault (.memAddressNotAligned s.pc s.npc ea)
  unmapped : ea.toNat % size = 0 → (∃ k < size, s.mapped (ea + BitVec.ofNat 32 k) = false) →
    exec i s = .fault (.dataAccessException s.pc s.npc ea)

/-- The faults of a store, and after them the refusal of a store to text (R64, R230). -/
structure StopsAsStore (i : Instr) (s : State) (ea : Word) (size : Nat) : Prop where
  faults : FaultsAsLoad i s ea size
  text : s.loadable ea size → (∃ k < size, s.isText (ea + BitVec.ofNat 32 k) = true) → exec i s = .refused (.storeToText ea)

/-- An odd register among the double operands raises fp_exception with ftt = invalid_fp_register (R260(b), R328). -/
def OddFaults (regs : List FReg) (i : Instr) (s : State) : Prop :=
  (∃ n ∈ regs, n.toNat % 2 = 1) → exec i s = .fault (.fpException s.pc s.npc .invalidFpRegister)

/-! ## Encodings -/

/-- The word of `i` has these `op` and `op3`, and decodes to `i` (R84, R87, R88). -/
structure HasOpcode (i : Instr) (op : BitVec 2) (op3 : BitVec 6) : Prop where
  op : fieldOp (encode i) = op
  op3 : fieldOp3 (encode i) = op3
  decodes : decode (encode i) = .instr i

/-- The word of `i` is a floating-point operate with these `op3` and `opf`, and decodes to `i` (R84, R91). -/
structure HasOpf (i : Instr) (op3 : BitVec 6) (opf : BitVec 9) : Prop where
  opcode : HasOpcode i 2 op3
  opf : fieldOpf (encode i) = opf

/-- The word of `i` is a branch with these fields, and decodes to `i` (R83, R89, R90). -/
structure HasCond (i : Instr) (op2 : BitVec 3) (cond : BitVec 4) (annul : Bool) (disp22 : BitVec 22) : Prop where
  op : fieldOp (encode i) = 0
  op2 : fieldOp2 (encode i) = op2
  cond : fieldCond (encode i) = cond
  annul : fieldAnnul (encode i) = annul
  disp22 : fieldImm22 (encode i) = disp22
  decodes : decode (encode i) = .instr i

/-! ## Rounding -/

/-- `r` is the exact value `num / den`, in units of 2^-1074, rounded once to nearest with ties to even (R273): below the overflow
threshold, no finite double is nearer, and where another is as near, the last bit of `r` is 0; from the threshold up, `r` is an
infinity. The threshold is half a last place above the largest finite double. -/
def IsNearestEven (r : Dword) (num : Int) (den : Nat) : Prop :=
  if num.natAbs < (2 ^ 54 - 1) * 2 ^ 2044 * den then
    dExp r < 2047 ∧
      ∀ d : Dword, dExp d < 2047 →
        (dVal r * den - num).natAbs ≤ (dVal d * den - num).natAbs ∧
          ((dVal r * den - num).natAbs = (dVal d * den - num).natAbs → dVal d ≠ dVal r → r.getLsbD 0 = false)
  else r = infinity (decide (num < 0))

/-- The IEEE exceptions of an operation on finite operands, no division by zero, whose exact value is `num / den` in units of 2^-1074
(the exceptions of the first three rows of R273): never invalid or division by zero; overflow when the result is an infinity; inexact when
it differs from the exact value; underflow only with inexact, never from the least normal number 2^52 units up, and with every inexact
result that rounding to 53 bits would leave below it. What is left open is the sliver where rounding alone reaches the least normal
number (tininess before or after rounding: U27, log 10). -/
structure RaisesFor (r : FpResult) (num : Int) (den : Nat) : Prop where
  nv : r.flags.nv = false
  dz : r.flags.dz = false
  of : r.flags.of = isInf r.value
  nx : r.flags.nx = true ↔ isInf r.value = true ∨ dVal r.value * den ≠ num
  uf_inexact : r.flags.uf = true → r.flags.nx = true
  uf_normal : 2 ^ 52 * den ≤ num.natAbs → r.flags.uf = false
  uf_tiny : 4 * num.natAbs < (2 ^ 54 - 1) * den → r.flags.uf = r.flags.nx

/-- A quiet NaN (R274). -/
def isQuietNaN (d : Dword) : Prop := isNaN d = true ∧ isSignallingNaN d = false

/-! ## Kinds of instruction -/

/-- The parts of the state an instruction may write, by the column "written by" of R20 and the instruction's rule. -/
def changes (i : Instr) : List Part :=
  match i with
  | .add .. | .sub .. | .udiv .. | .sdiv .. => [.registers]
  | .addcc .. | .subcc .. | .udivcc .. | .sdivcc .. => [.registers, .icc]
  | .umul .. | .smul .. => [.registers, .y]
  | .umulcc .. | .smulcc .. => [.registers, .y, .icc]
  | .and .. | .andn .. | .or .. | .orn .. | .xor .. | .xnor .. => [.registers]
  | .andcc .. | .andncc .. | .orcc .. | .orncc .. | .xorcc .. | .xnorcc .. => [.registers, .icc]
  | .sll .. | .srl .. | .sra .. | .sethi .. => [.registers]
  | .nop => []
  | .save .. | .restore .. => [.registers, .window]
  | .call .. | .jmpl .. => [.registers]
  | .ba .. | .bn .. | .bne .. | .be .. | .bg .. | .ble .. | .bge .. | .bl .. | .bgu .. | .bleu .. | .bcc .. | .bcs ..
  | .bpos .. | .bneg .. | .bvc .. | .bvs .. => []
  | .ldsb .. | .ldsh .. | .ldub .. | .lduh .. | .ld .. | .ldd .. => [.registers]
  | .stb .. | .sth .. | .st .. | .std .. | .stdf .. => [.memory]
  | .faddd .. | .fsubd .. | .fmuld .. | .fdivd .. | .fmovd .. | .fnegd .. | .fabsd .. | .fitod .. | .fdtoi .. =>
    [.floats, .fpStatus]
  | .lddf .. => [.floats]
  | .fcmpd .. => [.fcc, .fpStatus]
  | .fba .. | .fbn .. | .fbu .. | .fbg .. | .fbug .. | .fbl .. | .fbul .. | .fblg .. | .fbne .. | .fbe .. | .fbue ..
  | .fbge .. | .fbuge .. | .fble .. | .fbule .. | .fbo .. => []

/-- A branch other than `ba` and `fba`: the branches whose executed delay slot sets in_cond_delay (R43(c)). -/
def isConditional (i : Instr) : Bool :=
  match i with
  | .bn .. | .bne .. | .be .. | .bg .. | .ble .. | .bge .. | .bl .. | .bgu .. | .bleu .. | .bcc .. | .bcs .. | .bpos ..
  | .bneg .. | .bvc .. | .bvs .. => true
  | .fbn .. | .fbu .. | .fbg .. | .fbug .. | .fbl .. | .fbul .. | .fblg .. | .fbne .. | .fbe .. | .fbue .. | .fbge ..
  | .fbuge .. | .fble .. | .fbule .. | .fbo .. => true
  | .ba .. | .fba .. => false
  | .add .. | .sub .. | .udiv .. | .sdiv .. | .addcc .. | .subcc .. | .udivcc .. | .sdivcc .. | .umul .. | .smul ..
  | .umulcc .. | .smulcc .. => false
  | .and .. | .andn .. | .or .. | .orn .. | .xor .. | .xnor .. | .andcc .. | .andncc .. | .orcc .. | .orncc .. | .xorcc ..
  | .xnorcc .. => false
  | .sll .. | .srl .. | .sra .. | .sethi .. | .nop | .save .. | .restore .. | .call .. | .jmpl .. => false
  | .ldsb .. | .ldsh .. | .ldub .. | .lduh .. | .ld .. | .ldd .. | .stb .. | .sth .. | .st .. | .std .. => false
  | .faddd .. | .fsubd .. | .fmuld .. | .fdivd .. | .fmovd .. | .fnegd .. | .fabsd .. | .fitod .. | .fdtoi .. | .stdf ..
  | .lddf .. | .fcmpd .. => false

/-- A control transfer: `call`, `jmpl` and the 32 branches (R29, R364). -/
def isTransfer (i : Instr) : Bool :=
  match i with
  | .call .. | .jmpl .. | .ba .. | .fba .. => true
  | _ => isConditional i

/-- `fcmpd`, the one instruction that sets after_fcmp (R43(b)). -/
def isFcmpd (i : Instr) : Bool :=
  match i with
  | .fcmpd .. => true
  | _ => false

end Sys2Proof.Machine
end

