-- ==== Sys2Proof/Certificates/Slice0/Obligations.lean ====
section
/-! DEFINITION. The statements for the provers. OBLIGATIONS.json gives each its title, its words, its basis in the spec and its tier. -/

open Sys2Proof Sys2Proof.Machine

/-- O1. Decoding the word of any well-formed instruction gives that instruction back. Cites R101, 30_encoding.md. -/
def Obligations.DecodeOfEncode : Prop :=
  ∀ i : Instr, i.WellFormed → decode (encode i) = .instr i

/-- O2. A word that decodes to an instruction is the word of that instruction, and no other word is. Cites R97, R101,
30_encoding.md. -/
def Obligations.EncodeOfDecode : Prop :=
  ∀ (w : Word) (i : Instr), decode w = .instr i → encode i = w ∧ i.WellFormed

/-- O3. Words the spec writes out decode to the instructions it says they are. Cites R120, R146, R161, R170, R180, R182, R183,
R204, R231, R261, R270, R301. -/
def Obligations.SpecWordsDecode : Prop :=
  decode 0x94023FFF = .instr (.add 8 (.imm (-1)) 10) ∧
  decode 0x80900008 = .instr (.orcc 0 (.reg 8) 0) ∧
  decode 0x952A2004 = .instr (.sll 8 (.imm 4) 10) ∧
  decode 0x15048D15 = .instr (.sethi 0x48D15 10) ∧
  decode 0x01000000 = .instr .nop ∧
  decode 0x9DE3BFA0 = .instr (.save 14 (.imm (-96)) 14) ∧
  decode 0x91EC6000 = .instr (.restore 17 (.imm 0) 8) ∧
  decode 0x40000100 = .instr (.call 0x100) ∧
  decode 0x9FC22008 = .instr (.jmpl 8 (.imm 8) 15) ∧
  decode 0x12BFFFFE = .instr (.bne false (-2)) ∧
  decode 0xD64A2003 = .instr (.ldsb 8 (.imm 3) 11) ∧
  decode 0xD4220009 = .instr (.st 8 (.reg 9) 10) ∧
  decode 0x89A00842 = .instr (.faddd 0 2 4) ∧
  decode 0x81A80A42 = .instr (.fcmpd 0 2) ∧
  decode 0xC93A2010 = .instr (.stdf 8 (.imm 16) 4) ∧
  decode 0x33800004 = .instr (.fbe true 4)

/-- O4. A word Version 8 assigns to no instruction raises illegal_instruction, an unassigned opf fp_exception. Cites R98. -/
def Obligations.IllegalWordsFault : Prop :=
  ∀ (s : State) (w : Word), s.fetches w →
    ((fieldOp w = 0 ∧ fieldOp2 w ∈ ([0, 1, 3, 5] : List (BitVec 3))) ∨
      (fieldOp w = 2 ∧
        fieldOp3 w ∈ ([0x09, 0x0D, 0x19, 0x1D, 0x2C, 0x2D, 0x2E, 0x2F, 0x3E, 0x3F] : List (BitVec 6))) ∨
      (fieldOp w = 3 ∧
        fieldOp3 w ∈ ([0x08, 0x0B, 0x0C, 0x0E, 0x18, 0x1B, 0x1C, 0x1E, 0x22, 0x28, 0x29, 0x2A, 0x2B, 0x2C, 0x2D, 0x2E,
          0x2F, 0x32, 0x38, 0x39, 0x3A, 0x3B, 0x3C, 0x3D, 0x3E, 0x3F] : List (BitVec 6))) →
      step s = .fault (.illegalInstruction s.pc s.npc w)) ∧
    (s.psr.ef = true → fieldOp w = 2 →
      (fieldOp3 w = 0x34 ∧
          fieldOpf w ∉ ([0x042, 0x046, 0x04A, 0x04E, 0x002, 0x006, 0x00A, 0x0C8, 0x0D2, 0x001, 0x005, 0x009, 0x029, 0x02A, 0x02B,
            0x041, 0x043, 0x045, 0x047, 0x049, 0x04B, 0x04D, 0x04F, 0x069, 0x06E, 0x0C4, 0x0C6, 0x0C7, 0x0C9, 0x0CB, 0x0CC,
            0x0CD, 0x0CE, 0x0D1, 0x0D3] : List (BitVec 9))) ∨
        (fieldOp3 w = 0x35 ∧ fieldOpf w ∉ ([0x052, 0x051, 0x053, 0x055, 0x056, 0x057] : List (BitVec 9))) →
      step s = .fault (.fpException s.pc s.npc .unimplementedFPop))

/-- O5. A SPARC instruction outside the subset is refused by its name. Cites R99. -/
def Obligations.OutOfSubsetRefused : Prop :=
  ∀ (s : State) (w : Word), s.fetches w →
    (fieldOp w = 0 → fieldOp2 w = 7 → step s = .refused (.outOfSubset "CBccc")) ∧
    (fieldOp w = 2 → ∀ row ∈ ([
      (0x08, "ADDX"), (0x0C, "SUBX"), (0x18, "ADDXcc"), (0x1C, "SUBXcc"), (0x20, "TADDcc"), (0x21, "TSUBcc"),
      (0x22, "TADDccTV"), (0x23, "TSUBccTV"), (0x24, "MULScc"), (0x28, "RDY / RDASR / STBAR"), (0x29, "RDPSR"),
      (0x2A, "RDWIM"), (0x2B, "RDTBR"), (0x30, "WRY / WRASR"), (0x31, "WRPSR"), (0x32, "WRWIM"), (0x33, "WRTBR"),
      (0x36, "CPop1"), (0x37, "CPop2"), (0x39, "RETT"), (0x3A, "Ticc"), (0x3B, "FLUSH")] : List (BitVec 6 × String)),
      fieldOp3 w = row.1 → step s = .refused (.outOfSubset row.2)) ∧
    (fieldOp w = 3 → ∀ row ∈ ([
      (0x0D, "LDSTUB"), (0x0F, "SWAP"), (0x10, "LDA"), (0x11, "LDUBA"), (0x12, "LDUHA"), (0x13, "LDDA"), (0x14, "STA"),
      (0x15, "STBA"), (0x16, "STHA"), (0x17, "STDA"), (0x19, "LDSBA"), (0x1A, "LDSHA"), (0x1D, "LDSTUBA"),
      (0x1F, "SWAPA"), (0x20, "LDF"), (0x21, "LDFSR"), (0x24, "STF"), (0x25, "STFSR"), (0x26, "STDFQ"), (0x30, "LDC"),
      (0x31, "LDCSR"), (0x33, "LDDC"), (0x34, "STC"), (0x35, "STCSR"), (0x36, "STDCQ"), (0x37, "STDC")] : List (BitVec 6 × String)),
      fieldOp3 w = row.1 → step s = .refused (.outOfSubset row.2)) ∧
    (fieldOp w = 2 → fieldOp3 w = 0x34 → ∀ row ∈ ([
      (0x001, "FMOVs"), (0x005, "FNEGs"), (0x009, "FABSs"), (0x029, "FSQRTs"), (0x02A, "FSQRTd"), (0x02B, "FSQRTq"),
      (0x041, "FADDs"), (0x043, "FADDq"), (0x045, "FSUBs"), (0x047, "FSUBq"), (0x049, "FMULs"), (0x04B, "FMULq"),
      (0x04D, "FDIVs"), (0x04F, "FDIVq"), (0x069, "FsMULd"), (0x06E, "FdMULq"), (0x0C4, "FiTOs"), (0x0C6, "FdTOs"),
      (0x0C7, "FqTOs"), (0x0C9, "FsTOd"), (0x0CB, "FqTOd"), (0x0CC, "FiTOq"), (0x0CD, "FsTOq"), (0x0CE, "FdTOq"),
      (0x0D1, "FsTOi"), (0x0D3, "FqTOi")] : List (BitVec 9 × String)),
      fieldOpf w = row.1 → step s = .refused (.outOfSubset row.2)) ∧
    (fieldOp w = 2 → fieldOp3 w = 0x35 → ∀ row ∈ ([
      (0x051, "FCMPs"), (0x053, "FCMPq"), (0x055, "FCMPEs"), (0x056, "FCMPEd"), (0x057, "FCMPEq")] : List (BitVec 9 × String)),
      fieldOpf w = row.1 → step s = .refused (.outOfSubset row.2))

/-- O6. An instruction in scope with a nonzero reserved field is refused. Cites R97. -/
def Obligations.ReservedFieldsRefused : Prop :=
  ∀ (s : State) (w : Word), s.fetches w →
    ((fieldOp w = 2 ∧
          fieldOp3 w ∈ ([0x00, 0x01, 0x02, 0x03, 0x04, 0x05, 0x06, 0x07, 0x0A, 0x0B, 0x0E, 0x0F, 0x10, 0x11, 0x12, 0x13, 0x14, 0x15,
            0x16, 0x17, 0x1A, 0x1B, 0x1E, 0x1F, 0x25, 0x26, 0x27, 0x38, 0x3C, 0x3D] : List (BitVec 6)) ∨
        fieldOp w = 3 ∧
          fieldOp3 w ∈ ([0x00, 0x01, 0x02, 0x03, 0x04, 0x05, 0x06, 0x07, 0x09, 0x0A, 0x23, 0x27] : List (BitVec 6))) →
      fieldI w = false → fieldReserved w ≠ 0 → step s = .refused .reservedFieldNonzero) ∧
    (fieldOp w = 2 → fieldOp3 w ∈ ([0x25, 0x26, 0x27] : List (BitVec 6)) → fieldI w = true → fieldReserved w ≠ 0 →
      step s = .refused .reservedFieldNonzero) ∧
    (fieldOp w = 2 → fieldOp3 w = 0x34 → fieldOpf w ∈ ([0x002, 0x006, 0x00A, 0x0C8, 0x0D2] : List (BitVec 9)) → fieldRs1 w ≠ 0 →
      step s = .refused .reservedFieldNonzero) ∧
    (fieldOp w = 2 → fieldOp3 w = 0x35 → fieldOpf w = 0x052 → fieldRd w ≠ 0 → step s = .refused .reservedFieldNonzero)

/-- O7. A step runs the instruction that the four bytes at pc decode to, and nothing else. Cites R13, R55, R101. -/
def Obligations.StepRunsInstruction : Prop :=
  ∀ (s : State) (w : Word) (i : Instr), s.fetches w → decode w = .instr i → step s = exec i s

/-- O8. Fetching a word some byte of which is not Mapped raises instruction_access_exception. Cites R322. -/
def Obligations.UnmappedFetchFaults : Prop :=
  ∀ s : State, s.pc.toNat % 4 = 0 → (∃ k < 4, s.mapped (s.pc + BitVec.ofNat 32 k) = false) →
    (s.pc ≠ s.params.haltPc → step s = .fault (.instructionAccessException s.pc s.npc)) ∧
    (s.pc = s.params.haltPc → ∀ f, step s ≠ .fault f) ∧
    (Fault.instructionAccessException s.pc s.npc).trap.tt = some 0x01

/-- O9. At HALT_PC the step is refused as the end of the run (model choice, log 6). Cites R15, 00_scope.md. Model choice: log
6. -/
def Obligations.EndedRunHasNoStep : Prop :=
  ∀ s : State, s.ended → step s = .refused .runEnded

/-- O10. Every fault records the pc and npc of the faulting instruction, and each trap has its type number and priority. Cites
R320, R321, R333. -/
def Obligations.FaultsArePrecise : Prop :=
  (∀ (s : State) (f : Fault), step s = .fault f → f.pc = s.pc ∧ f.npc = s.npc) ∧
  ∀ f : Fault,
    match f with
    | .instructionAccessException _ _ => f.trap.tt = some 0x01 ∧ f.trap.priority = some 5
    | .illegalInstruction _ _ _ => f.trap.tt = some 0x02 ∧ f.trap.priority = some 7
    | .fpDisabled _ _ => f.trap.tt = some 0x04 ∧ f.trap.priority = some 8
    | .windowOverflow _ _ => f.trap.tt = some 0x05 ∧ f.trap.priority = some 9
    | .windowUnderflow _ _ => f.trap.tt = some 0x06 ∧ f.trap.priority = some 9
    | .memAddressNotAligned _ _ _ => f.trap.tt = some 0x07 ∧ f.trap.priority = some 10
    | .fpException _ _ _ => f.trap.tt = some 0x08 ∧ f.trap.priority = some 11
    | .dataAccessException _ _ _ => f.trap.tt = some 0x09 ∧ f.trap.priority = some 13
    | .divisionByZero _ _ => f.trap.tt = some 0x2A ∧ f.trap.priority = some 15

/-- O11. Every step keeps the invariant: canonical memory, aligned pc and npc, CWP below NWINDOWS, WIM and FQ legal. Cites
R24, R25, R27, R30, R41, R42. -/
def Obligations.StepKeepsInvariant : Prop :=
  ∀ s t : State, s.Inv → step s = .next t → t.Inv

/-- O12. The launch state has the invariant, the one that reset takes among them. Cites R24, R25, R44, R360, R361. -/
def Obligations.LaunchHasInvariant : Prop :=
  (∀ l : Launch, l.entryPc.toNat % 4 = 0 → l.cwpInit.toNat < l.params.nwindows.val →
    (∀ i, l.params.nwindows.val ≤ i → l.wimInit.getLsbD i = false) → (State.launch l).Inv) ∧
  State.reset.Inv

/-- O13. No step changes what the spec calls constant: parameters, WIM, PSR modes, TBR, ASRs, FSR modes, FQ. Cites R20, R25,
R34, R35, R38, R41. -/
def Obligations.StepKeepsConstants : Prop :=
  ∀ s t : State, step s = .next t → SameConstants s t

/-- O14. The launch state holds the values R44 and R361 give. Cites R6, R44, R361. Rests on the model choices of log 2 only
where it says `Launch.default`; nothing is said of values log 3 chose. -/
def Obligations.LaunchValues : Prop :=
  (∀ l : Launch,
    (State.launch l).pc = l.entryPc ∧ (State.launch l).npc = l.entryPc + 4 ∧ (State.launch l).cwp = l.cwpInit ∧
      (State.launch l).wim = l.wimInit ∧ (State.launch l).params.nwindows = l.params.nwindows ∧
      (State.launch l).params.haltPc = l.params.haltPc ∧
      (State.launch l).psr.ef = true ∧ (State.launch l).psr.s = false ∧ (State.launch l).standardFpu ∧
      (State.launch l).fsr.ver = 0 ∧ (State.launch l).ftt = .none ∧ (State.launch l).cexc = .none ∧
      (State.launch l).aexc = .none ∧ (State.launch l).fq = [] ∧
      (State.launch l).afterFcmp = false ∧ (State.launch l).inCondDelay = false ∧
      (State.launch l).reg 0 = 0 ∧ (State.launch l).reg 15 = l.params.haltPc - 8 ∧ (State.launch l).reg 14 = l.sp ∧
      (∀ (k : Nat) (h : k < 6), (State.launch l).reg (BitVec.ofNat 5 (8 + k)) = l.args[k]) ∧
      (State.launch l).globals = l.globals ∧ (State.launch l).icc = l.icc ∧ (State.launch l).y = l.y ∧
      (State.launch l).f = l.f ∧ (State.launch l).fcc = l.fcc ∧
      (∀ c : Fin 512, (∀ n : Reg, 8 ≤ n.toNat → n.toNat < 16 → (State.launch l).cell n ≠ .windowed c) →
        (State.launch l).windows[c] = l.windows[c])) ∧
  State.reset = State.launch Launch.default ∧ State.reset.params.nwindows.val = 8 ∧ State.reset.cwp = 0 ∧ State.reset.wim = 2

/-- O15. No instruction writes a part of the state that the table of R20 does not give it. Cites R20, R26, R32, R33, R39, R40.
-/
def Obligations.FrameOfEveryInstruction : Prop :=
  ∀ (i : Instr) (s t : State), exec i s = .next t → OnlyChanged (changes i) s t

/-- O16. Only the cc instructions write icc, only multiplies Y, only save and restore CWP, only fcmpd fcc. Cites R24, R32,
R33, R39. -/
def Obligations.SpecialRegisterWriters : Prop :=
  ∀ (i : Instr) (s t : State), exec i s = .next t →
    (((i matches .addcc .. | .subcc .. | .umulcc .. | .smulcc .. | .udivcc .. | .sdivcc .. | .andcc .. | .andncc .. | .orcc ..
        | .orncc .. | .xorcc .. | .xnorcc ..) = false → t.icc = s.icc) ∧
      ((i matches .umul .. | .umulcc .. | .smul .. | .smulcc ..) = false → t.y = s.y) ∧
      ((i matches .save .. | .restore ..) = false → t.cwp = s.cwp) ∧
      ((i matches .fcmpd ..) = false → t.fcc = s.fcc))

/-- O17. Every instruction that is not a control transfer advances pc to npc and npc by 4. Cites R29. -/
def Obligations.AdvanceOfNonTransfers : Prop :=
  ∀ (i : Instr) (s t : State), isTransfer i = false → exec i s = .next t →
    t.pc = s.npc ∧ t.npc = s.npc + 4 ∧ t.inCondDelay = false ∧ t.afterFcmp = isFcmpd i

/-- O18. A control transfer in the delay slot of a conditional branch is refused, and nothing else sets that state up. Cites
R365. -/
def Obligations.DctiCouples : Prop :=
  ∀ (i : Instr) (s : State),
    (isTransfer i = true → s.inCondDelay = true → exec i s = .refused .dctiCouple) ∧
    (s.inCondDelay = false → exec i s ≠ .refused .dctiCouple) ∧
    ∀ t, exec i s = .next t → t.inCondDelay = (isConditional i && decide (t.pc = s.npc))

/-- O19. A floating branch executed immediately after fcmpd is refused, and one instruction in between clears the way. Cites
R366. -/
def Obligations.FloatBranchAfterFcmpd : Prop :=
  ∀ s : State,
    (∀ mk ∈ ([.fba, .fbn, .fbu, .fbg, .fbug, .fbl, .fbul, .fblg, .fbne, .fbe, .fbue, .fbge, .fbuge, .fble, .fbule, .fbo] : List (Bool → BitVec 22 → Instr)),
      ∀ (annul : Bool) (disp22 : BitVec 22), s.inCondDelay = false → s.afterFcmp = true →
        exec (mk annul disp22) s = .refused .fbfccAfterFcmp) ∧
    (∀ i : Instr, s.afterFcmp = false → exec i s ≠ .refused .fbfccAfterFcmp) ∧
    ∀ (i : Instr) (t : State), exec i s = .next t → t.afterFcmp = isFcmpd i

/-- O20. Register 0 reads 0 in every window, a write to it changes nothing, and a write to another register is read back.
Cites R21. -/
def Obligations.RegisterZero : Prop :=
  ∀ (s : State) (w : BitVec 5) (n : Reg) (v : Word),
    s.regIn w 0 = 0 ∧ s.setRegIn w 0 v = s ∧ (n ≠ 0 → (s.setRegIn w n v).regIn w n = v)

/-- O21. Registers map to cells by the formula of R23, and the ins of a window are the outs of the next. Cites R23. -/
def Obligations.WindowMapping : Prop :=
  ∀ (s : State) (w : BitVec 5) (n : Reg),
    (1 ≤ n.toNat → n.toNat < 8 → s.globals[n.toNat - 1]? = some (s.regIn w n)) ∧
    (8 ≤ n.toNat →
      s.windows[(16 * w.toNat + (n.toNat - 8)) % (16 * s.params.nwindows.val)]? = some (s.regIn w n)) ∧
    (w.toNat < s.params.nwindows.val → ∀ k < 8,
      s.cellIn w (BitVec.ofNat 5 (24 + k)) =
        s.cellIn (BitVec.ofNat 5 ((w.toNat + 1) % s.params.nwindows.val)) (BitVec.ofNat 5 (8 + k))) ∧
    (w.toNat < s.params.nwindows.val → 16 ≤ n.toNat → n.toNat < 24 →
      ∀ (w' : BitVec 5) (m : Reg), w'.toNat < s.params.nwindows.val → w' ≠ w → s.cellIn w' m ≠ s.cellIn w n)

/-- O22. The 32 registers of a window are 32 different cells: a write to one is not seen in another. Cites R22, R23. -/
def Obligations.RegistersOfWindowDistinct : Prop :=
  ∀ (s : State) (w : BitVec 5) (n m : Reg) (v : Word),
    (s.cellIn w n = s.cellIn w m → n = m) ∧ (m ≠ n → (s.setRegIn w n v).regIn w m = s.regIn w m)

/-- O23. op2 is a register or a sign-extended immediate, an address wraps modulo 2^32, a shift count is five bits. Cites R10,
R50, R66, R92, R96. -/
def Obligations.OperandForms : Prop :=
  ∀ (s : State) (rs1 rs2 : Reg) (simm13 : BitVec 13) (shcnt : BitVec 5) (src2 : RegOrImm),
    (s.op2 (.imm simm13)).toInt = simm13.toInt ∧ s.op2 (.reg rs2) = s.reg rs2 ∧
      (s.ea rs1 src2).toNat = ((s.reg rs1).toNat + (s.op2 src2).toNat) % 2 ^ 32 ∧
      s.shiftCount (.reg rs2) = (s.reg rs2).toNat % 32 ∧ s.shiftCount (.imm shcnt) = shcnt.toNat

/-- O24. add and sub write the sum and the difference modulo 2^32 and change nothing else. Cites R120, R122. -/
def Obligations.AddSubResults : Prop :=
  ∀ (s : State) (rs1 rd : Reg) (src2 : RegOrImm),
    HasOpcode (.add rs1 src2 rd) 2 0x00 ∧ HasOpcode (.sub rs1 src2 rd) 2 0x04 ∧
    Answers (.add rs1 src2 rd) s (fun t =>
      WroteRegister s.cwp rd (s.reg rs1 + s.op2 src2) s t ∧ Advances s t ∧ OnlyChanged [.registers] s t) ∧
    Answers (.sub rs1 src2 rd) s (fun t =>
      WroteRegister s.cwp rd (s.reg rs1 - s.op2 src2) s t ∧ Advances s t ∧ OnlyChanged [.registers] s t)

/-- O25. addcc and subcc write result and all four flags: V signed overflow, C carry or borrow, with R133 bit formulas. Cites
R121, R123, R133. -/
def Obligations.AddccSubccResults : Prop :=
  ∀ (s : State) (rs1 rd : Reg) (src2 : RegOrImm),
    HasOpcode (.addcc rs1 src2 rd) 2 0x10 ∧ HasOpcode (.subcc rs1 src2 rd) 2 0x14 ∧
    Answers (.addcc rs1 src2 rd) s (fun t =>
      WroteRegister s.cwp rd (s.reg rs1 + s.op2 src2) s t ∧
      t.icc =
        ⟨(s.reg rs1 + s.op2 src2).getLsbD 31, decide (s.reg rs1 + s.op2 src2 = 0),
          decide ((s.reg rs1).toInt + (s.op2 src2).toInt < -2 ^ 31 ∨ 2 ^ 31 - 1 < (s.reg rs1).toInt + (s.op2 src2).toInt),
          decide (2 ^ 32 ≤ (s.reg rs1).toNat + (s.op2 src2).toNat)⟩ ∧
      t.icc.v = ((s.reg rs1).getLsbD 31 == (s.op2 src2).getLsbD 31 && t.icc.n != (s.reg rs1).getLsbD 31) ∧
      t.icc.c =
        (((s.reg rs1).getLsbD 31 && (s.op2 src2).getLsbD 31) ||
          (!t.icc.n && ((s.reg rs1).getLsbD 31 || (s.op2 src2).getLsbD 31))) ∧
      Advances s t ∧ OnlyChanged [.registers, .icc] s t) ∧
    Answers (.subcc rs1 src2 rd) s (fun t =>
      WroteRegister s.cwp rd (s.reg rs1 - s.op2 src2) s t ∧
      t.icc =
        ⟨(s.reg rs1 - s.op2 src2).getLsbD 31, decide (s.reg rs1 - s.op2 src2 = 0),
          decide ((s.reg rs1).toInt - (s.op2 src2).toInt < -2 ^ 31 ∨ 2 ^ 31 - 1 < (s.reg rs1).toInt - (s.op2 src2).toInt),
          decide ((s.reg rs1).toNat < (s.op2 src2).toNat)⟩ ∧
      t.icc.v = ((s.reg rs1).getLsbD 31 != (s.op2 src2).getLsbD 31 && t.icc.n != (s.reg rs1).getLsbD 31) ∧
      t.icc.c =
        ((!(s.reg rs1).getLsbD 31 && (s.op2 src2).getLsbD 31) ||
          (t.icc.n && (!(s.reg rs1).getLsbD 31 || (s.op2 src2).getLsbD 31))) ∧
      Advances s t ∧ OnlyChanged [.registers, .icc] s t)

/-- O26. The multiplies write the low word of the exact 64-bit product to rd and the high word to Y; cc forms set N and Z of
it. Cites R124, R125, R126, R127, R134. -/
def Obligations.MultiplyResults : Prop :=
  ∀ (s : State) (rs1 rd : Reg) (src2 : RegOrImm),
    HasOpcode (.umul rs1 src2 rd) 2 0x0A ∧ HasOpcode (.umulcc rs1 src2 rd) 2 0x1A ∧
    HasOpcode (.smul rs1 src2 rd) 2 0x0B ∧ HasOpcode (.smulcc rs1 src2 rd) 2 0x1B ∧
    Answers (.umul rs1 src2 rd) s (fun t =>
      WroteRegister s.cwp rd (BitVec.ofNat 32 ((s.reg rs1).toNat * (s.op2 src2).toNat)) s t ∧
      t.y = BitVec.ofNat 32 ((s.reg rs1).toNat * (s.op2 src2).toNat / 2 ^ 32) ∧
      Advances s t ∧ OnlyChanged [.registers, .y] s t) ∧
    Answers (.umulcc rs1 src2 rd) s (fun t =>
      WroteRegister s.cwp rd (BitVec.ofNat 32 ((s.reg rs1).toNat * (s.op2 src2).toNat)) s t ∧
      t.y = BitVec.ofNat 32 ((s.reg rs1).toNat * (s.op2 src2).toNat / 2 ^ 32) ∧
      t.icc = ⟨(BitVec.ofNat 32 ((s.reg rs1).toNat * (s.op2 src2).toNat)).getLsbD 31, decide (BitVec.ofNat 32 ((s.reg rs1).toNat * (s.op2 src2).toNat) = 0), false, false⟩ ∧
      Advances s t ∧ OnlyChanged [.registers, .y, .icc] s t) ∧
    Answers (.smul rs1 src2 rd) s (fun t =>
      WroteRegister s.cwp rd (BitVec.ofInt 32 ((s.reg rs1).toInt * (s.op2 src2).toInt)) s t ∧
      t.y = BitVec.ofInt 32 ((s.reg rs1).toInt * (s.op2 src2).toInt / 2 ^ 32) ∧
      Advances s t ∧ OnlyChanged [.registers, .y] s t) ∧
    Answers (.smulcc rs1 src2 rd) s (fun t =>
      WroteRegister s.cwp rd (BitVec.ofInt 32 ((s.reg rs1).toInt * (s.op2 src2).toInt)) s t ∧
      t.y = BitVec.ofInt 32 ((s.reg rs1).toInt * (s.op2 src2).toInt / 2 ^ 32) ∧
      t.icc = ⟨(BitVec.ofInt 32 ((s.reg rs1).toInt * (s.op2 src2).toInt)).getLsbD 31, decide (BitVec.ofInt 32 ((s.reg rs1).toInt * (s.op2 src2).toInt) = 0), false, false⟩ ∧
      Advances s t ∧ OnlyChanged [.registers, .y, .icc] s t)

/-- O27. udiv and udivcc write the clamped quotient of Y and r[rs1] by op2, with V on overflow; a zero divisor traps. Cites
R128, R129. -/
def Obligations.UnsignedDivideResults : Prop :=
  ∀ (s : State) (rs1 rd : Reg) (src2 : RegOrImm) (q : Nat),
    HasOpcode (.udiv rs1 src2 rd) 2 0x0E ∧ HasOpcode (.udivcc rs1 src2 rd) 2 0x1E ∧
    (s.op2 src2 ≠ 0 → q = (s.y.toNat * 2 ^ 32 + (s.reg rs1).toNat) / (s.op2 src2).toNat →
      Answers (.udiv rs1 src2 rd) s (fun t =>
        WroteRegister s.cwp rd (BitVec.ofNat 32 (min q (2 ^ 32 - 1))) s t ∧ Advances s t ∧ OnlyChanged [.registers] s t) ∧
      Answers (.udivcc rs1 src2 rd) s (fun t =>
        WroteRegister s.cwp rd (BitVec.ofNat 32 (min q (2 ^ 32 - 1))) s t ∧
        t.icc =
          ⟨(BitVec.ofNat 32 (min q (2 ^ 32 - 1))).getLsbD 31, decide (min q (2 ^ 32 - 1) = 0), decide (2 ^ 32 - 1 < q), false⟩ ∧
        Advances s t ∧ OnlyChanged [.registers, .icc] s t)) ∧
    (s.op2 src2 = 0 →
      exec (.udiv rs1 src2 rd) s = .fault (.divisionByZero s.pc s.npc) ∧
      exec (.udivcc rs1 src2 rd) s = .fault (.divisionByZero s.pc s.npc))

/-- O28. sdiv and sdivcc write the truncated, clamped quotient; V says it was clamped, but for the corner of U7. Cites R130,
R131, R135. Model choice: the V of sdivcc where the exact quotient lies strictly between -2^31 - 1 and -2^31 is free, log 9.
-/
def Obligations.SignedDivideResults : Prop :=
  ∀ (s : State) (rs1 rd : Reg) (src2 : RegOrImm) (dividend q : Int),
    HasOpcode (.sdiv rs1 src2 rd) 2 0x0F ∧ HasOpcode (.sdivcc rs1 src2 rd) 2 0x1F ∧
    (s.op2 src2 ≠ 0 → dividend = s.y.toInt * 2 ^ 32 + (s.reg rs1).toNat → q = dividend.tdiv (s.op2 src2).toInt →
      Answers (.sdiv rs1 src2 rd) s (fun t =>
        WroteRegister s.cwp rd (BitVec.ofInt 32 (max (-2 ^ 31) (min q (2 ^ 31 - 1)))) s t ∧ Advances s t ∧ OnlyChanged [.registers] s t) ∧
      Answers (.sdivcc rs1 src2 rd) s (fun t =>
        WroteRegister s.cwp rd (BitVec.ofInt 32 (max (-2 ^ 31) (min q (2 ^ 31 - 1)))) s t ∧
        t.icc.n = decide (q < 0) ∧ t.icc.z = decide (q = 0) ∧ t.icc.c = false ∧
        (¬ (q = -2 ^ 31 ∧ q * (s.op2 src2).toInt ≠ dividend) → t.icc.v = decide (q < -2 ^ 31 ∨ 2 ^ 31 - 1 < q)) ∧
        Advances s t ∧ OnlyChanged [.registers, .icc] s t)) ∧
    (s.op2 src2 = 0 → exec (.sdiv rs1 src2 rd) s = .fault (.divisionByZero s.pc s.npc))

/-- O29. The four integer divides raise division_by_zero, trap type 0x2A, exactly when the divisor is 0; no other instruction
does. Cites R330. -/
def Obligations.DivisionByZeroTraps : Prop :=
  (∀ (s : State) (rs1 rd : Reg) (src2 : RegOrImm), s.op2 src2 = 0 →
    ∀ mk ∈ ([.udiv, .udivcc, .sdiv, .sdivcc] : List (Reg → RegOrImm → Reg → Instr)),
      exec (mk rs1 src2 rd) s = .fault (.divisionByZero s.pc s.npc)) ∧
  (∀ pc npc : Word, (Fault.divisionByZero pc npc).trap.tt = some 0x2A) ∧
  (∀ (i : Instr) (s : State) (pc npc : Word), exec i s = .fault (.divisionByZero pc npc) →
    ∃ mk ∈ ([.udiv, .udivcc, .sdiv, .sdivcc] : List (Reg → RegOrImm → Reg → Instr)),
      ∃ (rs1 rd : Reg) (src2 : RegOrImm), i = mk rs1 src2 rd ∧ s.op2 src2 = 0) ∧
  (∀ (s : State) (rs1 rd : Reg) (src2 : RegOrImm), s.op2 src2 ≠ 0 →
    ∀ mk ∈ ([.udiv, .udivcc, .sdiv, .sdivcc] : List (Reg → RegOrImm → Reg → Instr)),
      ∀ f, exec (mk rs1 src2 rd) s ≠ .fault f)

/-- O30. and, andn, or, orn, xor, xnor write the bitwise result and change nothing else. Cites R141, R143, R145, R147, R149,
R151. -/
def Obligations.LogicalResults : Prop :=
  ∀ (s : State) (rs1 rd : Reg) (src2 : RegOrImm),
    HasOpcode (.and rs1 src2 rd) 2 0x01 ∧
    HasOpcode (.andn rs1 src2 rd) 2 0x05 ∧
    HasOpcode (.or rs1 src2 rd) 2 0x02 ∧
    HasOpcode (.orn rs1 src2 rd) 2 0x06 ∧
    HasOpcode (.xor rs1 src2 rd) 2 0x03 ∧
    HasOpcode (.xnor rs1 src2 rd) 2 0x07 ∧
    Answers (.and rs1 src2 rd) s (fun t =>
      WroteRegister s.cwp rd (s.reg rs1 &&& s.op2 src2) s t ∧ Advances s t ∧ OnlyChanged [.registers] s t) ∧
    Answers (.andn rs1 src2 rd) s (fun t =>
      WroteRegister s.cwp rd (s.reg rs1 &&& ~~~(s.op2 src2)) s t ∧ Advances s t ∧ OnlyChanged [.registers] s t) ∧
    Answers (.or rs1 src2 rd) s (fun t =>
      WroteRegister s.cwp rd (s.reg rs1 ||| s.op2 src2) s t ∧ Advances s t ∧ OnlyChanged [.registers] s t) ∧
    Answers (.orn rs1 src2 rd) s (fun t =>
      WroteRegister s.cwp rd (s.reg rs1 ||| ~~~(s.op2 src2)) s t ∧ Advances s t ∧ OnlyChanged [.registers] s t) ∧
    Answers (.xor rs1 src2 rd) s (fun t =>
      WroteRegister s.cwp rd (s.reg rs1 ^^^ s.op2 src2) s t ∧ Advances s t ∧ OnlyChanged [.registers] s t) ∧
    Answers (.xnor rs1 src2 rd) s (fun t =>
      WroteRegister s.cwp rd (~~~(s.reg rs1 ^^^ s.op2 src2)) s t ∧ Advances s t ∧ OnlyChanged [.registers] s t)

/-- O31. The cc forms of the logical instructions also write N and Z of the result and clear V and C. Cites R142, R144, R146,
R148, R150, R152. -/
def Obligations.LogicalCcResults : Prop :=
  ∀ (s : State) (rs1 rd : Reg) (src2 : RegOrImm),
    HasOpcode (.andcc rs1 src2 rd) 2 0x11 ∧
    HasOpcode (.andncc rs1 src2 rd) 2 0x15 ∧
    HasOpcode (.orcc rs1 src2 rd) 2 0x12 ∧
    HasOpcode (.orncc rs1 src2 rd) 2 0x16 ∧
    HasOpcode (.xorcc rs1 src2 rd) 2 0x13 ∧
    HasOpcode (.xnorcc rs1 src2 rd) 2 0x17 ∧
    Answers (.andcc rs1 src2 rd) s (fun t =>
      WroteRegister s.cwp rd (s.reg rs1 &&& s.op2 src2) s t ∧
      t.icc = ⟨(s.reg rs1 &&& s.op2 src2).getLsbD 31, decide (s.reg rs1 &&& s.op2 src2 = 0), false, false⟩ ∧
      Advances s t ∧ OnlyChanged [.registers, .icc] s t) ∧
    Answers (.andncc rs1 src2 rd) s (fun t =>
      WroteRegister s.cwp rd (s.reg rs1 &&& ~~~(s.op2 src2)) s t ∧
      t.icc = ⟨(s.reg rs1 &&& ~~~(s.op2 src2)).getLsbD 31, decide (s.reg rs1 &&& ~~~(s.op2 src2) = 0), false, false⟩ ∧
      Advances s t ∧ OnlyChanged [.registers, .icc] s t) ∧
    Answers (.orcc rs1 src2 rd) s (fun t =>
      WroteRegister s.cwp rd (s.reg rs1 ||| s.op2 src2) s t ∧
      t.icc = ⟨(s.reg rs1 ||| s.op2 src2).getLsbD 31, decide (s.reg rs1 ||| s.op2 src2 = 0), false, false⟩ ∧
      Advances s t ∧ OnlyChanged [.registers, .icc] s t) ∧
    Answers (.orncc rs1 src2 rd) s (fun t =>
      WroteRegister s.cwp rd (s.reg rs1 ||| ~~~(s.op2 src2)) s t ∧
      t.icc = ⟨(s.reg rs1 ||| ~~~(s.op2 src2)).getLsbD 31, decide (s.reg rs1 ||| ~~~(s.op2 src2) = 0), false, false⟩ ∧
      Advances s t ∧ OnlyChanged [.registers, .icc] s t) ∧
    Answers (.xorcc rs1 src2 rd) s (fun t =>
      WroteRegister s.cwp rd (s.reg rs1 ^^^ s.op2 src2) s t ∧
      t.icc = ⟨(s.reg rs1 ^^^ s.op2 src2).getLsbD 31, decide (s.reg rs1 ^^^ s.op2 src2 = 0), false, false⟩ ∧
      Advances s t ∧ OnlyChanged [.registers, .icc] s t) ∧
    Answers (.xnorcc rs1 src2 rd) s (fun t =>
      WroteRegister s.cwp rd (~~~(s.reg rs1 ^^^ s.op2 src2)) s t ∧
      t.icc = ⟨(~~~(s.reg rs1 ^^^ s.op2 src2)).getLsbD 31, decide (~~~(s.reg rs1 ^^^ s.op2 src2) = 0), false, false⟩ ∧
      Advances s t ∧ OnlyChanged [.registers, .icc] s t)

/-- O32. The shifts multiply or divide by 2^n, n the low five bits of the count, and write no flag. Cites R160, R161, R162,
R163. -/
def Obligations.ShiftResults : Prop :=
  ∀ (s : State) (rs1 rd : Reg) (count : ShiftCount) (n : Nat),
    HasOpcode (.sll rs1 count rd) 2 0x25 ∧ HasOpcode (.srl rs1 count rd) 2 0x26 ∧ HasOpcode (.sra rs1 count rd) 2 0x27 ∧
    (n = (match count with
        | .reg rs2 => (s.reg rs2).toNat % 32
        | .imm shcnt => shcnt.toNat) →
      Answers (.sll rs1 count rd) s (fun t =>
        WroteRegister s.cwp rd (BitVec.ofNat 32 ((s.reg rs1).toNat * 2 ^ n)) s t ∧ Advances s t ∧ OnlyChanged [.registers] s t) ∧
      Answers (.srl rs1 count rd) s (fun t =>
        WroteRegister s.cwp rd (BitVec.ofNat 32 ((s.reg rs1).toNat / 2 ^ n)) s t ∧ Advances s t ∧ OnlyChanged [.registers] s t) ∧
      Answers (.sra rs1 count rd) s (fun t =>
        WroteRegister s.cwp rd (BitVec.ofInt 32 ((s.reg rs1).toInt / 2 ^ n)) s t ∧ Advances s t ∧ OnlyChanged [.registers] s t))

/-- O33. sethi writes imm22 * 1024, nop only advances pc and npc. Cites R170, R171. -/
def Obligations.SethiNopResults : Prop :=
  ∀ (s : State) (imm22 : BitVec 22) (rd : Reg),
    fieldOp (encode (.sethi imm22 rd)) = 0 ∧ fieldOp2 (encode (.sethi imm22 rd)) = 4 ∧
    fieldImm22 (encode (.sethi imm22 rd)) = imm22 ∧ fieldRd (encode (.sethi imm22 rd)) = rd ∧
    encode .nop = 0x01000000 ∧ encode (.sethi 0 0) = 0x01000000 ∧ decode 0x01000000 = .instr .nop ∧
    Answers (.sethi imm22 rd) s (fun t =>
      WroteRegister s.cwp rd (BitVec.ofNat 32 (imm22.toNat * 1024)) s t ∧ Advances s t ∧ OnlyChanged [.registers] s t) ∧
    Answers .nop s (fun t => Advances s t ∧ OnlyChanged [] s t)

/-- O34. save and restore move one window down or up and add across the move, or trap when WIM marks the new window. Cites
R180, R181, R325, R326. -/
def Obligations.SaveRestoreResults : Prop :=
  ∀ (s : State) (rs1 rd : Reg) (src2 : RegOrImm) (below above : BitVec 5),
    HasOpcode (.save rs1 src2 rd) 2 0x3C ∧ HasOpcode (.restore rs1 src2 rd) 2 0x3D ∧
    (below = BitVec.ofNat 5 ((s.cwp.toNat + s.params.nwindows.val - 1) % s.params.nwindows.val) →
      (s.wim.getLsbD below.toNat = false →
        Answers (.save rs1 src2 rd) s (fun t =>
          t.cwp = below ∧ WroteRegister below rd (s.reg rs1 + s.op2 src2) s t ∧ Advances s t ∧
            OnlyChanged [.registers, .window] s t)) ∧
      (s.wim.getLsbD below.toNat = true → exec (.save rs1 src2 rd) s = .fault (.windowOverflow s.pc s.npc))) ∧
    (above = BitVec.ofNat 5 ((s.cwp.toNat + 1) % s.params.nwindows.val) →
      (s.wim.getLsbD above.toNat = false →
        Answers (.restore rs1 src2 rd) s (fun t =>
          t.cwp = above ∧ WroteRegister above rd (s.reg rs1 + s.op2 src2) s t ∧ Advances s t ∧
            OnlyChanged [.registers, .window] s t)) ∧
      (s.wim.getLsbD above.toNat = true → exec (.restore rs1 src2 rd) s = .fault (.windowUnderflow s.pc s.npc))) ∧
    (Fault.windowOverflow s.pc s.npc).trap.tt = some 0x05 ∧ (Fault.windowUnderflow s.pc s.npc).trap.tt = some 0x06

/-- O35. A save and then a restore return to the same window with its locals and ins untouched. Cites R23, R184. -/
def Obligations.RestoreUndoesSave : Prop :=
  ∀ (s t u : State) (rs1 rd rs1' rd' : Reg) (src2 src2' : RegOrImm), s.cwp.toNat < s.params.nwindows.val →
    exec (.save rs1 src2 rd) s = .next t → exec (.restore rs1' src2' rd') t = .next u →
    u.cwp = s.cwp ∧
      ∀ n : Reg, 16 ≤ n.toNat → (n.toNat < 24 ∨ 3 ≤ s.params.nwindows.val) → n ≠ rd' → u.reg n = s.reg n

/-- O36. call writes its own address to %o7 and jumps, delayed, to pc + 4 * disp30. Cites R182. -/
def Obligations.CallResult : Prop :=
  ∀ (s : State) (disp30 : BitVec 30),
    fieldOp (encode (.call disp30)) = 1 ∧ fieldDisp30 (encode (.call disp30)) = disp30 ∧
      decode (encode (.call disp30)) = .instr (.call disp30) ∧
    (s.inCondDelay = false →
      Answers (.call disp30) s (fun t =>
        WroteRegister s.cwp 15 s.pc s t ∧ JumpsDelayed (BitVec.ofNat 32 (s.pc.toNat + 4 * disp30.toNat)) s t ∧
          OnlyChanged [.registers] s t)) ∧
    (s.inCondDelay = true → exec (.call disp30) s = .refused .dctiCouple)

/-- O37. jmpl writes its own address to rd and jumps, delayed, to r[rs1] + op2; a misaligned target traps. Cites R183. -/
def Obligations.JmplResult : Prop :=
  ∀ (s : State) (rs1 rd : Reg) (src2 : RegOrImm) (target : Word), target = s.reg rs1 + s.op2 src2 →
    HasOpcode (.jmpl rs1 src2 rd) 2 0x38 ∧
    (s.inCondDelay = false → target.toNat % 4 = 0 →
      Answers (.jmpl rs1 src2 rd) s (fun t =>
        WroteRegister s.cwp rd s.pc s t ∧ JumpsDelayed target s t ∧ OnlyChanged [.registers] s t)) ∧
    (s.inCondDelay = false → target.toNat % 4 ≠ 0 →
      exec (.jmpl rs1 src2 rd) s = .fault (.memAddressNotAligned s.pc s.npc target)) ∧
    (s.inCondDelay = true → exec (.jmpl rs1 src2 rd) s = .refused .dctiCouple)

/-- O38. Each of the sixteen integer branches tests icc by its cond and moves pc and npc by the four cases of R200. Cites R89,
R200. -/
def Obligations.IntegerBranchResults : Prop :=
  ∀ row ∈ ([
      (0x8, .ba, fun _ => true), (0x0, .bn, fun _ => false), (0x9, .bne, fun c => !c.z), (0x1, .be, fun c => c.z),
      (0xA, .bg, fun c => !(c.z || (c.n ^^ c.v))), (0x2, .ble, fun c => c.z || (c.n ^^ c.v)),
      (0xB, .bge, fun c => !(c.n ^^ c.v)), (0x3, .bl, fun c => c.n ^^ c.v), (0xC, .bgu, fun c => !(c.c || c.z)),
      (0x4, .bleu, fun c => c.c || c.z), (0xD, .bcc, fun c => !c.c), (0x5, .bcs, fun c => c.c),
      (0xE, .bpos, fun c => !c.n), (0x6, .bneg, fun c => c.n), (0xF, .bvc, fun c => !c.v), (0x7, .bvs, fun c => c.v)] : List (BitVec 4 × (Bool → BitVec 22 → Instr) × (Icc → Bool))),
  ∀ (s : State) (annul : Bool) (disp22 : BitVec 22),
    HasCond (row.2.1 annul disp22) 2 row.1 annul disp22 ∧
    (s.inCondDelay = true → exec (row.2.1 annul disp22) s = .refused .dctiCouple) ∧
    (s.inCondDelay = false →
      ∀ taken annulled : Bool, taken = row.2.2 s.icc → annulled = (annul && (!taken || row.1 == 0x8)) →
        Answers (row.2.1 annul disp22) s (fun t =>
          (t.pc, t.npc) =
            (if taken then
              if annulled then (s.pc + 4 * disp22.signExtend 32, s.pc + 4 * disp22.signExtend 32 + 4)
              else (s.npc, s.pc + 4 * disp22.signExtend 32)
            else if annulled then (s.npc + 4, s.npc + 8) else (s.npc, s.npc + 4)) ∧
          t.inCondDelay = (row.1 != 0x8 && !annulled) ∧ t.afterFcmp = false ∧ OnlyChanged [] s t))

/-- O39. After subcc x, y each integer branch is taken exactly when the relation its name says holds of x and y. Cites R201.
-/
def Obligations.BranchAfterSubcc : Prop :=
  ∀ row ∈ ([
      (.bne, fun x y => x != y),
      (.be, fun x y => x == y),
      (.bg, fun x y => decide (y.toInt < x.toInt)),
      (.ble, fun x y => decide (x.toInt ≤ y.toInt)),
      (.bge, fun x y => decide (y.toInt ≤ x.toInt)),
      (.bl, fun x y => decide (x.toInt < y.toInt)),
      (.bgu, fun x y => decide (y.toNat < x.toNat)),
      (.bleu, fun x y => decide (x.toNat ≤ y.toNat)),
      (.bcc, fun x y => decide (y.toNat ≤ x.toNat)),
      (.bcs, fun x y => decide (x.toNat < y.toNat)),
      (.bpos, fun x y => !(x - y).getLsbD 31),
      (.bneg, fun x y => (x - y).getLsbD 31),
      (.bvc, fun x y => decide (-2 ^ 31 ≤ x.toInt - y.toInt ∧ x.toInt - y.toInt ≤ 2 ^ 31 - 1)),
      (.bvs, fun x y => decide (x.toInt - y.toInt < -2 ^ 31 ∨ 2 ^ 31 - 1 < x.toInt - y.toInt)),
      (.ba, fun _ _ => true),
      (.bn, fun _ _ => false)] : List ((Bool → BitVec 22 → Instr) × (Word → Word → Bool))),
  ∀ (s t : State) (rs1 rd : Reg) (src2 : RegOrImm) (disp22 : BitVec 22), exec (.subcc rs1 src2 rd) s = .next t →
    Answers (row.1 false disp22) t (fun u =>
      u.pc = t.npc ∧
        u.npc = if row.2 (s.reg rs1) (s.op2 src2) then t.pc + 4 * disp22.signExtend 32 else t.npc + 4)

/-- O40. Each of the sixteen floating branches tests fcc by its cond and moves pc and npc as the integer branches do. Cites
R90, R290, R291. -/
def Obligations.FloatBranchResults : Prop :=
  ∀ row ∈ ([
      (0x8, .fba, [.equal, .less, .greater, .unordered]), (0x0, .fbn, []), (0x7, .fbu, [.unordered]),
      (0x6, .fbg, [.greater]), (0x5, .fbug, [.greater, .unordered]), (0x4, .fbl, [.less]),
      (0x3, .fbul, [.less, .unordered]), (0x2, .fblg, [.less, .greater]), (0x1, .fbne, [.less, .greater, .unordered]),
      (0x9, .fbe, [.equal]), (0xA, .fbue, [.equal, .unordered]), (0xB, .fbge, [.equal, .greater]),
      (0xC, .fbuge, [.equal, .greater, .unordered]), (0xD, .fble, [.equal, .less]),
      (0xE, .fbule, [.equal, .less, .unordered]), (0xF, .fbo, [.equal, .less, .greater])] :
      List (BitVec 4 × (Bool → BitVec 22 → Instr) × List Fcc)),
  ∀ (s : State) (annul : Bool) (disp22 : BitVec 22),
    HasCond (row.2.1 annul disp22) 6 row.1 annul disp22 ∧
    (s.inCondDelay = true → exec (row.2.1 annul disp22) s = .refused .dctiCouple) ∧
    (s.inCondDelay = false → s.afterFcmp = true → exec (row.2.1 annul disp22) s = .refused .fbfccAfterFcmp) ∧
    (s.inCondDelay = false → s.afterFcmp = false → s.psr.ef = false →
      exec (row.2.1 annul disp22) s = .fault (.fpDisabled s.pc s.npc)) ∧
    (s.inCondDelay = false → s.afterFcmp = false → s.psr.ef = true →
      ∀ taken annulled : Bool, taken = decide (s.fcc ∈ row.2.2) → annulled = (annul && (!taken || row.1 == 0x8)) →
        Answers (row.2.1 annul disp22) s (fun t =>
          (t.pc, t.npc) =
            (if taken then
              if annulled then (s.pc + 4 * disp22.signExtend 32, s.pc + 4 * disp22.signExtend 32 + 4)
              else (s.npc, s.pc + 4 * disp22.signExtend 32)
            else if annulled then (s.npc + 4, s.npc + 8) else (s.npc, s.npc + 4)) ∧
          t.inCondDelay = (row.1 != 0x8 && !annulled) ∧ t.afterFcmp = false ∧ OnlyChanged [] s t))

/-- O41. ldsb ldsh ldub lduh ld write the big-endian bytes at ea, sign- or zero-extended, or fault. Cites R231, R232, R233,
R234, R235. -/
def Obligations.LoadResults : Prop :=
  ∀ (s : State) (rs1 rd : Reg) (src2 : RegOrImm) (ea : Word), ea = s.reg rs1 + s.op2 src2 →
    HasOpcode (.ldsb rs1 src2 rd) 3 0x09 ∧ FaultsAsLoad (.ldsb rs1 src2 rd) s ea 1 ∧
    (s.loadable ea 1 →
      Answers (.ldsb rs1 src2 rd) s (fun t =>
        WroteRegister s.cwp rd ((BitVec.ofNat 8 (s.bigEndian ea 1)).signExtend 32) s t ∧ Advances s t ∧ OnlyChanged [.registers] s t)) ∧
    HasOpcode (.ldsh rs1 src2 rd) 3 0x0A ∧ FaultsAsLoad (.ldsh rs1 src2 rd) s ea 2 ∧
    (s.loadable ea 2 →
      Answers (.ldsh rs1 src2 rd) s (fun t =>
        WroteRegister s.cwp rd ((BitVec.ofNat 16 (s.bigEndian ea 2)).signExtend 32) s t ∧ Advances s t ∧ OnlyChanged [.registers] s t)) ∧
    HasOpcode (.ldub rs1 src2 rd) 3 0x01 ∧ FaultsAsLoad (.ldub rs1 src2 rd) s ea 1 ∧
    (s.loadable ea 1 →
      Answers (.ldub rs1 src2 rd) s (fun t =>
        WroteRegister s.cwp rd (BitVec.ofNat 32 (s.bigEndian ea 1)) s t ∧ Advances s t ∧ OnlyChanged [.registers] s t)) ∧
    HasOpcode (.lduh rs1 src2 rd) 3 0x02 ∧ FaultsAsLoad (.lduh rs1 src2 rd) s ea 2 ∧
    (s.loadable ea 2 →
      Answers (.lduh rs1 src2 rd) s (fun t =>
        WroteRegister s.cwp rd (BitVec.ofNat 32 (s.bigEndian ea 2)) s t ∧ Advances s t ∧ OnlyChanged [.registers] s t)) ∧
    HasOpcode (.ld rs1 src2 rd) 3 0x00 ∧ FaultsAsLoad (.ld rs1 src2 rd) s ea 4 ∧
    (s.loadable ea 4 →
      Answers (.ld rs1 src2 rd) s (fun t =>
        WroteRegister s.cwp rd (BitVec.ofNat 32 (s.bigEndian ea 4)) s t ∧ Advances s t ∧ OnlyChanged [.registers] s t))

/-- O42. ldd writes the word at ea to rd and the word at ea + 4 to rd + 1; odd rd raises illegal_instruction first. Cites
R236. -/
def Obligations.LoadDoubleResult : Prop :=
  ∀ (s : State) (rs1 rd : Reg) (src2 : RegOrImm) (ea : Word), ea = s.reg rs1 + s.op2 src2 →
    HasOpcode (.ldd rs1 src2 rd) 3 0x03 ∧
    (rd.toNat % 2 = 1 →
      exec (.ldd rs1 src2 rd) s = .fault (.illegalInstruction s.pc s.npc (encode (.ldd rs1 src2 rd)))) ∧
    (rd.toNat % 2 = 0 → FaultsAsLoad (.ldd rs1 src2 rd) s ea 8) ∧
    (rd.toNat % 2 = 0 → s.loadable ea 8 →
      Answers (.ldd rs1 src2 rd) s (fun t =>
        (∀ c, t.readCell c =
          if c = s.cellIn s.cwp (rd + 1) then BitVec.ofNat 32 (s.bigEndian (ea + 4) 4)
          else if rd ≠ 0 ∧ c = s.cellIn s.cwp rd then BitVec.ofNat 32 (s.bigEndian ea 4)
          else s.readCell c) ∧
        Advances s t ∧ OnlyChanged [.registers] s t))

/-- O43. stb sth st write the low bytes of r[rd] big-endian at ea and no other byte, or fault, or are refused on text. Cites
R237, R238, R239. -/
def Obligations.StoreResults : Prop :=
  ∀ (s : State) (rs1 rd : Reg) (src2 : RegOrImm) (ea : Word), ea = s.reg rs1 + s.op2 src2 →
    HasOpcode (.stb rs1 src2 rd) 3 0x05 ∧ StopsAsStore (.stb rs1 src2 rd) s ea 1 ∧
    (s.mem.wf → s.storable ea 1 →
      Answers (.stb rs1 src2 rd) s (fun t =>
        WroteMemory ea 1 ((s.reg rd).extractLsb' 0 8) s t ∧ Advances s t ∧ OnlyChanged [.memory] s t)) ∧
    HasOpcode (.sth rs1 src2 rd) 3 0x06 ∧ StopsAsStore (.sth rs1 src2 rd) s ea 2 ∧
    (s.mem.wf → s.storable ea 2 →
      Answers (.sth rs1 src2 rd) s (fun t =>
        WroteMemory ea 2 ((s.reg rd).extractLsb' 0 16) s t ∧ Advances s t ∧ OnlyChanged [.memory] s t)) ∧
    HasOpcode (.st rs1 src2 rd) 3 0x04 ∧ StopsAsStore (.st rs1 src2 rd) s ea 4 ∧
    (s.mem.wf → s.storable ea 4 →
      Answers (.st rs1 src2 rd) s (fun t =>
        WroteMemory ea 4 (s.reg rd) s t ∧ Advances s t ∧ OnlyChanged [.memory] s t))

/-- O44. std writes r[rd] at ea and r[rd + 1] at ea + 4; odd rd raises illegal_instruction first. Cites R240. -/
def Obligations.StoreDoubleResult : Prop :=
  ∀ (s : State) (rs1 rd : Reg) (src2 : RegOrImm) (ea : Word), ea = s.reg rs1 + s.op2 src2 →
    HasOpcode (.std rs1 src2 rd) 3 0x07 ∧
    (rd.toNat % 2 = 1 →
      exec (.std rs1 src2 rd) s = .fault (.illegalInstruction s.pc s.npc (encode (.std rs1 src2 rd)))) ∧
    (rd.toNat % 2 = 0 → StopsAsStore (.std rs1 src2 rd) s ea 8) ∧
    (rd.toNat % 2 = 0 → s.mem.wf → s.storable ea 8 →
      Answers (.std rs1 src2 rd) s (fun t =>
        WroteMemory ea 8 (s.reg rd ++ s.reg (rd + 1)) s t ∧ Advances s t ∧ OnlyChanged [.memory] s t))

/-- O45. Misaligned addresses raise mem_address_not_aligned for every access form but the byte ones, and for jmpl. Cites R327.
-/
def Obligations.MisalignedAccessFaults : Prop :=
  ∀ (s : State) (rs1 rd : Reg) (src2 : RegOrImm) (ea : Word), ea = s.reg rs1 + s.op2 src2 →
    (∀ mk ∈ ([.ldsh, .lduh, .sth] : List (Reg → RegOrImm → Reg → Instr)), ea.toNat % 2 ≠ 0 →
      exec (mk rs1 src2 rd) s = .fault (.memAddressNotAligned s.pc s.npc ea)) ∧
    (∀ mk ∈ ([.ld, .st] : List (Reg → RegOrImm → Reg → Instr)), ea.toNat % 4 ≠ 0 →
      exec (mk rs1 src2 rd) s = .fault (.memAddressNotAligned s.pc s.npc ea)) ∧
    (∀ mk ∈ ([.ldd, .std] : List (Reg → RegOrImm → Reg → Instr)), rd.toNat % 2 = 0 → ea.toNat % 8 ≠ 0 →
      exec (mk rs1 src2 rd) s = .fault (.memAddressNotAligned s.pc s.npc ea)) ∧
    (∀ mk ∈ ([.lddf, .stdf] : List (Reg → RegOrImm → FReg → Instr)), s.psr.ef = true → rd.toNat % 2 = 0 → ea.toNat % 8 ≠ 0 →
      exec (mk rs1 src2 rd) s = .fault (.memAddressNotAligned s.pc s.npc ea)) ∧
    (s.inCondDelay = false → ea.toNat % 4 ≠ 0 →
      exec (.jmpl rs1 src2 rd) s = .fault (.memAddressNotAligned s.pc s.npc ea)) ∧
    (∀ mk ∈ ([.ldsb, .ldub, .stb] : List (Reg → RegOrImm → Reg → Instr)), ∀ pc npc address : Word,
      exec (mk rs1 src2 rd) s ≠ .fault (.memAddressNotAligned pc npc address)) ∧
    (Fault.memAddressNotAligned s.pc s.npc ea).trap.tt = some 0x07

/-- O46. No step changes a byte of program text or a byte that is not Mapped. Cites R58, R59, R64. -/
def Obligations.OnlyWritableBytesChange : Prop :=
  ∀ (s t : State) (a : Word), s.mem.wf → step s = .next t → t.mem.readByte a ≠ s.mem.readByte a →
    s.mapped a = true ∧ s.isText a = false

/-- O47. A load returns what the store before it wrote: st then ld, std then ldd, floating std then ldd, std then floating
ldd. Cites R52, R61, R240. -/
def Obligations.LoadsReturnStores : Prop :=
  ∀ (s t u : State) (rs1 rd rd' : Reg) (src2 : RegOrImm), s.mem.wf →
    (exec (.st rs1 src2 rd) s = .next t → exec (.ld rs1 src2 rd') t = .next u → WroteRegister t.cwp rd' (s.reg rd) t u) ∧
    (exec (.std rs1 src2 rd) s = .next t → exec (.ldd rs1 src2 rd) t = .next u → ∀ c, u.readCell c = s.readCell c) ∧
    (exec (.stdf rs1 src2 rd) s = .next t → exec (.lddf rs1 src2 rd) t = .next u → ∀ n, u.freg n = s.freg n) ∧
    (exec (.std rs1 src2 rd) s = .next t → exec (.lddf rs1 src2 rd') t = .next u →
      WroteDouble rd' (s.reg rd ++ s.reg (rd + 1)) t u)

/-- O48. faddd fsubd fmuld fdivd write the IEEE result of their operands to D[rd] and its exceptions to cexc and aexc. Cites
R40, R260, R261, R262, R263, R264. -/
def Obligations.FpArithmeticResults : Prop :=
  ∀ (s : State) (rs1 rs2 rd : FReg),
    HasOpf (.faddd rs1 rs2 rd) 0x34 0x042 ∧ (s.psr.ef = true → OddFaults [rs1, rs2, rd] (.faddd rs1 rs2 rd) s) ∧
    (s.standardFpu → rs1.toNat % 2 = 0 → rs2.toNat % 2 = 0 → rd.toNat % 2 = 0 →
      Answers (.faddd rs1 rs2 rd) s (fun t =>
        WroteDouble rd (ieeeArith .nearestEven .add (s.dreg rs1) (s.dreg rs2)).value s t ∧
          RaisedFlags (ieeeArith .nearestEven .add (s.dreg rs1) (s.dreg rs2)).flags s t ∧
          Advances s t ∧ OnlyChanged [.floats, .fpStatus] s t)) ∧
    HasOpf (.fsubd rs1 rs2 rd) 0x34 0x046 ∧ (s.psr.ef = true → OddFaults [rs1, rs2, rd] (.fsubd rs1 rs2 rd) s) ∧
    (s.standardFpu → rs1.toNat % 2 = 0 → rs2.toNat % 2 = 0 → rd.toNat % 2 = 0 →
      Answers (.fsubd rs1 rs2 rd) s (fun t =>
        WroteDouble rd (ieeeArith .nearestEven .sub (s.dreg rs1) (s.dreg rs2)).value s t ∧
          RaisedFlags (ieeeArith .nearestEven .sub (s.dreg rs1) (s.dreg rs2)).flags s t ∧
          Advances s t ∧ OnlyChanged [.floats, .fpStatus] s t)) ∧
    HasOpf (.fmuld rs1 rs2 rd) 0x34 0x04A ∧ (s.psr.ef = true → OddFaults [rs1, rs2, rd] (.fmuld rs1 rs2 rd) s) ∧
    (s.standardFpu → rs1.toNat % 2 = 0 → rs2.toNat % 2 = 0 → rd.toNat % 2 = 0 →
      Answers (.fmuld rs1 rs2 rd) s (fun t =>
        WroteDouble rd (ieeeArith .nearestEven .mul (s.dreg rs1) (s.dreg rs2)).value s t ∧
          RaisedFlags (ieeeArith .nearestEven .mul (s.dreg rs1) (s.dreg rs2)).flags s t ∧
          Advances s t ∧ OnlyChanged [.floats, .fpStatus] s t)) ∧
    HasOpf (.fdivd rs1 rs2 rd) 0x34 0x04E ∧ (s.psr.ef = true → OddFaults [rs1, rs2, rd] (.fdivd rs1 rs2 rd) s) ∧
    (s.standardFpu → rs1.toNat % 2 = 0 → rs2.toNat % 2 = 0 → rd.toNat % 2 = 0 →
      Answers (.fdivd rs1 rs2 rd) s (fun t =>
        WroteDouble rd (ieeeArith .nearestEven .div (s.dreg rs1) (s.dreg rs2)).value s t ∧
          RaisedFlags (ieeeArith .nearestEven .div (s.dreg rs1) (s.dreg rs2)).flags s t ∧
          Advances s t ∧ OnlyChanged [.floats, .fpStatus] s t))

/-- O49. Sums, differences, products, quotients of finite doubles are rounded once to nearest even, with the exceptions of
R273. Cites R38, R273, R274. Underflow where rounding alone reaches the least normal number is free: log 10. -/
def Obligations.FpResultsAreNearest : Prop :=
  ∀ a b : Dword, dExp a < 2047 → dExp b < 2047 →
    (IsNearestEven (ieeeArith .nearestEven .add a b).value (dVal a + dVal b) 1 ∧
      RaisesFor (ieeeArith .nearestEven .add a b) (dVal a + dVal b) 1) ∧
    (IsNearestEven (ieeeArith .nearestEven .sub a b).value (dVal a - dVal b) 1 ∧
      RaisesFor (ieeeArith .nearestEven .sub a b) (dVal a - dVal b) 1) ∧
    (IsNearestEven (ieeeArith .nearestEven .mul a b).value (dVal a * dVal b) (2 ^ 1074) ∧
      RaisesFor (ieeeArith .nearestEven .mul a b) (dVal a * dVal b) (2 ^ 1074) ∧
      dSign (ieeeArith .nearestEven .mul a b).value = (dSign a ^^ dSign b)) ∧
    (dVal b ≠ 0 →
      IsNearestEven (ieeeArith .nearestEven .div a b).value (dVal a * 2 ^ 1074 * (dVal b).sign) (dVal b).natAbs ∧
      RaisesFor (ieeeArith .nearestEven .div a b) (dVal a * 2 ^ 1074 * (dVal b).sign) (dVal b).natAbs ∧
      dSign (ieeeArith .nearestEven .div a b).value = (dSign a ^^ dSign b))

/-- O50. NaNs, infinities, zeros and division by zero give the results and exceptions of the table of R273. Cites R273. -/
def Obligations.FpSpecialCases : Prop :=
  ∀ a b : Dword,
    ((isNaN a = true ∨ isNaN b = true) → ∀ op : FpOp,
      isQuietNaN (ieeeArith .nearestEven op a b).value ∧
        (ieeeArith .nearestEven op a b).flags = ⟨isSignallingNaN a || isSignallingNaN b, false, false, false, false⟩) ∧
    (isNaN a = false → isNaN b = false →
      (∀ op : FpOp,
        (match op with
          | .add => isInf a && isInf b && (dSign a != dSign b)
          | .sub => isInf a && isInf b && (dSign a == dSign b)
          | .mul => (isInf a && isZero b) || (isZero a && isInf b)
          | .div => (isZero a && isZero b) || (isInf a && isInf b)) = true →
        isQuietNaN (ieeeArith .nearestEven op a b).value ∧
          (ieeeArith .nearestEven op a b).flags = ⟨true, false, false, false, false⟩) ∧
      (isInf a = false → isZero a = false → isZero b = true →
        ieeeArith .nearestEven .div a b = ⟨infinity (dSign a ^^ dSign b), ⟨false, false, false, true, false⟩⟩) ∧
      (isInf a = true → isInf b = false →
        ieeeArith .nearestEven .add a b = ⟨a, .none⟩ ∧ ieeeArith .nearestEven .sub a b = ⟨a, .none⟩ ∧
          ieeeArith .nearestEven .div a b = ⟨infinity (dSign a ^^ dSign b), .none⟩) ∧
      (isInf a = true → isZero b = false →
        ieeeArith .nearestEven .mul a b = ⟨infinity (dSign a ^^ dSign b), .none⟩ ∧
          ieeeArith .nearestEven .mul b a = ⟨infinity (dSign a ^^ dSign b), .none⟩) ∧
      (isInf a = false → isInf b = true →
        ieeeArith .nearestEven .add a b = ⟨b, .none⟩ ∧ ieeeArith .nearestEven .sub a b = ⟨negateDouble b, .none⟩ ∧
          ieeeArith .nearestEven .div a b = ⟨signedZero (dSign a ^^ dSign b), .none⟩) ∧
      (isInf a = true → isInf b = true → dSign a = dSign b → ieeeArith .nearestEven .add a b = ⟨a, .none⟩) ∧
      (isInf a = true → isInf b = true → dSign a ≠ dSign b → ieeeArith .nearestEven .sub a b = ⟨a, .none⟩) ∧
      (isInf a = false → isInf b = false → dVal a + dVal b = 0 →
        ieeeArith .nearestEven .add a b = ⟨signedZero (dSign a && dSign b), .none⟩) ∧
      ((isInf a && isInf b && (dSign a == dSign b)) = false →
        ieeeArith .nearestEven .sub a b = ieeeArith .nearestEven .add a (negateDouble b)))

/-- O51. fmovd, fnegd, fabsd copy all 64 bits, invert the sign bit, clear it, and raise no IEEE exception. Cites R265, R266,
R267. -/
def Obligations.FpMoveResults : Prop :=
  ∀ (s : State) (rs2 rd : FReg), s.psr.ef = true →
    HasOpf (.fmovd rs2 rd) 0x34 0x002 ∧ fieldRs1 (encode (.fmovd rs2 rd)) = 0 ∧ OddFaults [rs2, rd] (.fmovd rs2 rd) s ∧
    (rs2.toNat % 2 = 0 → rd.toNat % 2 = 0 →
      Answers (.fmovd rs2 rd) s (fun t =>
        WroteDouble rd (s.dreg rs2) s t ∧ RaisedFlags .none s t ∧ t.aexc = s.aexc ∧ Advances s t ∧
          OnlyChanged [.floats, .fpStatus] s t)) ∧
    HasOpf (.fnegd rs2 rd) 0x34 0x006 ∧ fieldRs1 (encode (.fnegd rs2 rd)) = 0 ∧ OddFaults [rs2, rd] (.fnegd rs2 rd) s ∧
    (rs2.toNat % 2 = 0 → rd.toNat % 2 = 0 →
      Answers (.fnegd rs2 rd) s (fun t =>
        WroteDouble rd (s.dreg rs2 ^^^ 0x8000000000000000) s t ∧ RaisedFlags .none s t ∧ t.aexc = s.aexc ∧ Advances s t ∧
          OnlyChanged [.floats, .fpStatus] s t)) ∧
    HasOpf (.fabsd rs2 rd) 0x34 0x00A ∧ fieldRs1 (encode (.fabsd rs2 rd)) = 0 ∧ OddFaults [rs2, rd] (.fabsd rs2 rd) s ∧
    (rs2.toNat % 2 = 0 → rd.toNat % 2 = 0 →
      Answers (.fabsd rs2 rd) s (fun t =>
        WroteDouble rd (s.dreg rs2 &&& 0x7FFFFFFFFFFFFFFF) s t ∧ RaisedFlags .none s t ∧ t.aexc = s.aexc ∧ Advances s t ∧
          OnlyChanged [.floats, .fpStatus] s t))

/-- O52. fitod writes the double whose value is exactly the signed integer in f[rs2]. Cites R268. -/
def Obligations.FitodResult : Prop :=
  ∀ (s : State) (rs2 rd : FReg), s.psr.ef = true →
    HasOpf (.fitod rs2 rd) 0x34 0x0C8 ∧ fieldRs1 (encode (.fitod rs2 rd)) = 0 ∧ OddFaults [rd] (.fitod rs2 rd) s ∧
    (rd.toNat % 2 = 0 →
      ∃ d : Dword, dExp d < 2047 ∧ dVal d = (s.freg rs2).toInt * 2 ^ 1074 ∧ (s.freg rs2 = 0 → d = 0) ∧
        Answers (.fitod rs2 rd) s (fun t =>
          WroteDouble rd d s t ∧ RaisedFlags .none s t ∧ Advances s t ∧ OnlyChanged [.floats, .fpStatus] s t))

/-- O53. fdtoi writes the double truncated toward zero, and completes with some value when it does not fit. Cites R269. Model
choice: that a NaN or an infinity raises invalid alone, and that a double with a fraction part may raise inexact beside it,
log 8. -/
def Obligations.FdtoiResult : Prop :=
  ∀ (s : State) (rs2 rd : FReg) (q : Int), s.standardFpu →
    HasOpf (.fdtoi rs2 rd) 0x34 0x0D2 ∧ fieldRs1 (encode (.fdtoi rs2 rd)) = 0 ∧ OddFaults [rs2] (.fdtoi rs2 rd) s ∧
    (rs2.toNat % 2 = 0 → q = (dVal (s.dreg rs2)).tdiv (2 ^ 1074) →
      (dExp (s.dreg rs2) < 2047 ∧ -2 ^ 31 ≤ q ∧ q ≤ 2 ^ 31 - 1 →
        Answers (.fdtoi rs2 rd) s (fun t =>
          WroteFloat rd (BitVec.ofInt 32 q) s t ∧
            RaisedFlags ⟨false, false, false, false, decide (dVal (s.dreg rs2) ≠ q * 2 ^ 1074)⟩ s t ∧
            Advances s t ∧ OnlyChanged [.floats, .fpStatus] s t)) ∧
      (¬ (dExp (s.dreg rs2) < 2047 ∧ -2 ^ 31 ≤ q ∧ q ≤ 2 ^ 31 - 1) →
        Answers (.fdtoi rs2 rd) s (fun t =>
          (∃ v, WroteFloat rd v s t) ∧
            (∃ nx, RaisedFlags ⟨true, false, false, false, nx⟩ s t ∧
              (dExp (s.dreg rs2) = 2047 ∨ dVal (s.dreg rs2) = q * 2 ^ 1074 → nx = false)) ∧
            Advances s t ∧ OnlyChanged [.floats, .fpStatus] s t)))

/-- O54. Floating ldd and std move eight bytes between memory and an even floating pair; an odd register faults. Cites R270,
R271, R327, R332. Which of two faults an odd register with a misaligned address names is not stated: U14, log 16. -/
def Obligations.FloatLoadStoreResults : Prop :=
  ∀ (s : State) (rs1 : Reg) (rd : FReg) (src2 : RegOrImm) (ea : Word), ea = s.reg rs1 + s.op2 src2 → s.psr.ef = true →
    HasOpcode (.lddf rs1 src2 rd) 3 0x23 ∧ HasOpcode (.stdf rs1 src2 rd) 3 0x27 ∧
    (rd.toNat % 2 = 1 → ∀ mk ∈ ([.lddf, .stdf] : List (Reg → RegOrImm → FReg → Instr)),
      (ea.toNat % 8 = 0 → exec (mk rs1 src2 rd) s = .fault (.fpException s.pc s.npc .invalidFpRegister)) ∧
      (ea.toNat % 8 ≠ 0 →
        exec (mk rs1 src2 rd) s = .fault (.fpException s.pc s.npc .invalidFpRegister) ∨
          exec (mk rs1 src2 rd) s = .fault (.memAddressNotAligned s.pc s.npc ea))) ∧
    (rd.toNat % 2 = 0 →
      FaultsAsLoad (.lddf rs1 src2 rd) s ea 8 ∧ StopsAsStore (.stdf rs1 src2 rd) s ea 8 ∧
      (s.loadable ea 8 →
        Answers (.lddf rs1 src2 rd) s (fun t =>
          WroteDouble rd (BitVec.ofNat 64 (s.bigEndian ea 8)) s t ∧ Advances s t ∧ OnlyChanged [.floats] s t)) ∧
      (s.mem.wf → s.storable ea 8 →
        Answers (.stdf rs1 src2 rd) s (fun t =>
          WroteMemory ea 8 (s.freg rd ++ s.freg (rd + 1)) s t ∧ Advances s t ∧ OnlyChanged [.memory] s t)))

/-- O55. fcmpd sets fcc to the relation of D[rs1] to D[rs2], unordered for a NaN, and after_fcmp to 1. Cites R272. -/
def Obligations.FcmpdResult : Prop :=
  (∀ (s : State) (rs1 rs2 : FReg), s.standardFpu →
    HasOpf (.fcmpd rs1 rs2) 0x35 0x052 ∧ fieldRd (encode (.fcmpd rs1 rs2)) = 0 ∧
    OddFaults [rs1, rs2] (.fcmpd rs1 rs2) s ∧
    (rs1.toNat % 2 = 0 → rs2.toNat % 2 = 0 →
      Answers (.fcmpd rs1 rs2) s (fun t =>
        (t.fcc = .unordered ↔ isNaN (s.dreg rs1) = true ∨ isNaN (s.dreg rs2) = true) ∧
        (isNaN (s.dreg rs1) = false → isNaN (s.dreg rs2) = false →
          (t.fcc = .equal ↔ dVal (s.dreg rs1) = dVal (s.dreg rs2)) ∧
          (t.fcc = .less ↔ dVal (s.dreg rs1) < dVal (s.dreg rs2)) ∧
          (t.fcc = .greater ↔ dVal (s.dreg rs2) < dVal (s.dreg rs1))) ∧
        RaisedFlags ⟨isSignallingNaN (s.dreg rs1) || isSignallingNaN (s.dreg rs2), false, false, false, false⟩ s t ∧
        t.pc = s.npc ∧ t.npc = s.npc + 4 ∧ t.inCondDelay = false ∧ t.afterFcmp = true ∧
        OnlyChanged [.fcc, .fpStatus] s t))) ∧
  (∀ neg : Bool, ∀ d : Dword, dExp d < 2047 →
    if neg then dVal (infinity neg) < dVal d else dVal d < dVal (infinity neg)) ∧
  dVal (signedZero false) = dVal (signedZero true)

/-- O56. With EF = 0 every floating-point instruction raises fp_disabled (never reached in a run: log 13). Cites R34, R260,
R324. Model choice in states no run reaches: log 13. -/
def Obligations.DisabledFpuTraps : Prop :=
  ∀ s : State, s.psr.ef = false →
    (∀ (mk : FReg → FReg → FReg → Instr), mk ∈ ([.faddd, .fsubd, .fmuld, .fdivd] : List (FReg → FReg → FReg → Instr)) →
      ∀ rs1 rs2 rd, exec (mk rs1 rs2 rd) s = .fault (.fpDisabled s.pc s.npc)) ∧
    (∀ (mk : FReg → FReg → Instr), mk ∈ ([.fmovd, .fnegd, .fabsd, .fitod, .fdtoi, .fcmpd] : List (FReg → FReg → Instr)) →
      ∀ rs2 rd, exec (mk rs2 rd) s = .fault (.fpDisabled s.pc s.npc)) ∧
    (∀ rs1 src2 rd, exec (.lddf rs1 src2 rd) s = .fault (.fpDisabled s.pc s.npc) ∧
      exec (.stdf rs1 src2 rd) s = .fault (.fpDisabled s.pc s.npc)) ∧
    (s.inCondDelay = false → s.afterFcmp = false →
      ∀ mk ∈ ([.fba, .fbn, .fbu, .fbg, .fbug, .fbl, .fbul, .fblg, .fbne, .fbe, .fbue, .fbge, .fbuge, .fble, .fbule, .fbo] : List (Bool → BitVec 22 → Instr)),
        ∀ annul disp22, exec (mk annul disp22) s = .fault (.fpDisabled s.pc s.npc)) ∧
    (Fault.fpDisabled s.pc s.npc).trap.tt = some 0x04 ∧
    ∀ t : State, t.psr.ef = true → ∀ (i : Instr) (pc npc : Word), exec i t ≠ .fault (.fpDisabled pc npc)

/-- O57. The fields of PSR, TBR and FSR stand at the bits the spec gives them, reserved bits zero. Cites R31, R34, R35, R38,
R39. -/
def Obligations.ComposedRegisterLayouts : Prop :=
  ∀ s : State,
    (s.psrWord.extractLsb' 28 4 = s.psr.impl ∧ s.psrWord.extractLsb' 24 4 = s.psr.ver ∧
      s.psrWord.getLsbD 23 = s.icc.n ∧ s.psrWord.getLsbD 22 = s.icc.z ∧ s.psrWord.getLsbD 21 = s.icc.v ∧
      s.psrWord.getLsbD 20 = s.icc.c ∧ s.psrWord.extractLsb' 14 6 = 0 ∧ s.psrWord.getLsbD 13 = s.psr.ec ∧
      s.psrWord.getLsbD 12 = s.psr.ef ∧ s.psrWord.extractLsb' 8 4 = s.psr.pil ∧ s.psrWord.getLsbD 7 = s.psr.s ∧
      s.psrWord.getLsbD 6 = s.psr.ps ∧ s.psrWord.getLsbD 5 = s.psr.et ∧ s.psrWord.extractLsb' 0 5 = s.cwp) ∧
    (s.tbrWord.extractLsb' 12 20 = s.tbrBase ∧ s.tbrWord.extractLsb' 4 8 = s.tbrTt ∧ s.tbrWord.extractLsb' 0 4 = 0) ∧
    (s.fsrWord.extractLsb' 30 2 = s.fsr.rd.toBits ∧ s.fsrWord.extractLsb' 28 2 = 0 ∧
      s.fsrWord.getLsbD 27 = s.fsr.tem.nv ∧ s.fsrWord.getLsbD 26 = s.fsr.tem.of ∧ s.fsrWord.getLsbD 25 = s.fsr.tem.uf ∧
      s.fsrWord.getLsbD 24 = s.fsr.tem.dz ∧ s.fsrWord.getLsbD 23 = s.fsr.tem.nx ∧ s.fsrWord.getLsbD 22 = s.fsr.ns ∧
      s.fsrWord.extractLsb' 20 2 = 0 ∧ s.fsrWord.extractLsb' 17 3 = s.fsr.ver ∧ s.fsrWord.extractLsb' 14 3 = s.ftt.toBits ∧
      s.fsrWord.getLsbD 13 = !s.fq.isEmpty ∧ s.fsrWord.getLsbD 12 = false ∧ s.fsrWord.extractLsb' 10 2 = s.fcc.toBits ∧
      s.fsrWord.getLsbD 9 = s.aexc.nv ∧ s.fsrWord.getLsbD 8 = s.aexc.of ∧ s.fsrWord.getLsbD 7 = s.aexc.uf ∧
      s.fsrWord.getLsbD 6 = s.aexc.dz ∧ s.fsrWord.getLsbD 5 = s.aexc.nx ∧
      s.fsrWord.getLsbD 4 = s.cexc.nv ∧ s.fsrWord.getLsbD 3 = s.cexc.of ∧ s.fsrWord.getLsbD 2 = s.cexc.uf ∧
      s.fsrWord.getLsbD 1 = s.cexc.dz ∧ s.fsrWord.getLsbD 0 = s.cexc.nx)

/-- O58. Two memories in canonical form that read the same at every address are equal. Cites R42, R58. The form is the
model's: log 4. -/
def Obligations.MemoryIsItsBytes : Prop :=
  ∀ m m' : Memory, m.wf → m'.wf → (∀ a, m.readByte a = m'.readByte a) → m = m'

/-- O59. Hardware trap entry saves pc and npc in %l1 and %l2 of the next window and goes to the trap table (not called by
step). Cites R334. Not part of a run: log 24. -/
def Obligations.HardwareTrapEntrySaves : Prop :=
  ∀ (s : State) (tt : BitVec 8) (w : BitVec 5),
    w = BitVec.ofNat 5 ((s.cwp.toNat + s.params.nwindows.val - 1) % s.params.nwindows.val) →
    (s.psr.et = false → hardwareTrapEntry tt s = none) ∧
    (s.psr.et = true → ∃ t, hardwareTrapEntry tt s = some t ∧
      t.psr = { s.psr with et := false, ps := s.psr.s, s := true } ∧ t.cwp = w ∧
      (∀ c, t.readCell c =
        if c = s.cellIn w 17 then s.pc else if c = s.cellIn w 18 then s.npc else s.readCell c) ∧
      t.tbrTt = tt ∧ t.tbrBase = s.tbrBase ∧ t.pc = s.tbrBase ++ tt ++ 0#4 ∧ t.npc = t.pc + 4 ∧
      (∀ a, t.mem.readByte a = s.mem.readByte a) ∧ t.icc = s.icc ∧ t.wim = s.wim)

/-- O60. At launch the program and the data stand in memory, Text and Mapped describe them, and the first step fetches the
program. Cites R6, R361, R362. How a launch writes its program down, as segments, is the choice of log 21. -/
def Obligations.LaunchLoadsProgram : Prop :=
  ∀ (l : Launch) (saves below : Nat), LaunchReady l saves below →
    (∀ g ∈ l.program ++ l.data, ∀ (k : Nat) (h : k < g.bytes.length),
      (State.launch l).mem.readByte (g.base + BitVec.ofNat 32 k) = g.bytes[k]) ∧
    (∀ a, (State.launch l).mapped a = true ↔
      (∃ g ∈ l.program ++ l.data, g.holds a) ∨ inRegions l.params.mapped a = true) ∧
    (∀ a, (State.launch l).isText a = true ↔
      (∃ g ∈ l.program, g.holds a) ∨ (inRegions l.params.text a = true ∧ (State.launch l).mapped a = true)) ∧
    (State.launch l).standardFpu ∧ (State.launch l).Inv ∧
    (∀ g ∈ l.program, ∀ (b0 b1 b2 b3 : Byte) (rest : List Byte), g.base = l.entryPc → g.bytes = b0 :: b1 :: b2 :: b3 :: rest →
      l.entryPc ≠ l.params.haltPc → (State.launch l).fetches (wordOfBytes b0 b1 b2 b3))
end

