-- ==== Sys2Proof/Laws/Encoding.lean ====
section
/-! SUPPORT. Each field of a word the encoder writes is what was placed there (spec 30_encoding.md R81 to R85). -/

namespace Sys2Proof

/-- Reading back the place a field was put. -/
theorem extract_placed_same {n : Nat} (v : BitVec n) (lo : Nat) (h : lo + n ≤ 32) : (placed v lo).extractLsb' lo n = v := by
  apply BitVec.eq_of_getLsbD_eq
  intro i hi
  simp [placed, hi, show lo + i < 32 by omega]

/-- Reading a place that does not meet a field's. -/
theorem extract_placed_disjoint {n : Nat} (v : BitVec n) (lo a len : Nat) (h : a + len ≤ lo ∨ lo + n ≤ a) :
    (placed v lo).extractLsb' a len = 0 := by
  apply BitVec.eq_of_getLsbD_eq
  intro i hi
  simp only [placed, BitVec.getLsbD_extractLsb', BitVec.getLsbD_shiftLeft, BitVec.getLsbD_setWidth, BitVec.ofNat_eq_ofNat, BitVec.getLsbD_zero]
  rcases h with h | h
  · simp [show a + i < lo by omega]
  · rw [BitVec.getLsbD_of_ge v _ (by omega)]
    simp

/-- A bit of a word is the slice of length 1 there. -/
theorem getLsbD_of_extract (w : Word) (k : Nat) (b : Bool) (h : w.extractLsb' k 1 = BitVec.ofBool b) : w.getLsbD k = b := by
  have := congrArg (fun x => x.getLsbD 0) h
  simpa using this

/-! ### Format 1 -/

@[simp] theorem fieldOp_wordCall (disp30 : BitVec 30) : fieldOp (wordCall disp30) = 1 := by
  simp [fieldOp, wordCall, BitVec.extractLsb'_or, extract_placed_same (0b01#2) 30 (by decide), extract_placed_disjoint (disp30) 0 30 2 (by decide)]

@[simp] theorem fieldDisp30_wordCall (disp30 : BitVec 30) : fieldDisp30 (wordCall disp30) = disp30 := by
  simp [fieldDisp30, wordCall, BitVec.extractLsb'_or, extract_placed_disjoint (0b01#2) 30 0 30 (by decide), extract_placed_same (disp30) 0 (by decide)]

/-! ### Format 2 -/

@[simp] theorem fieldOp_wordSethi (imm22 : BitVec 22) (rd : Reg) : fieldOp (wordSethi imm22 rd) = 0 := by
  simp [fieldOp, wordSethi, BitVec.extractLsb'_or, extract_placed_same (0b00#2) 30 (by decide), extract_placed_disjoint (rd) 25 30 2 (by decide), extract_placed_disjoint (0b100#3) 22 30 2 (by decide), extract_placed_disjoint (imm22) 0 30 2 (by decide)]

@[simp] theorem fieldOp2_wordSethi (imm22 : BitVec 22) (rd : Reg) : fieldOp2 (wordSethi imm22 rd) = 4 := by
  simp [fieldOp2, wordSethi, BitVec.extractLsb'_or, extract_placed_disjoint (0b00#2) 30 22 3 (by decide), extract_placed_disjoint (rd) 25 22 3 (by decide), extract_placed_same (0b100#3) 22 (by decide), extract_placed_disjoint (imm22) 0 22 3 (by decide)]

@[simp] theorem fieldImm22_wordSethi (imm22 : BitVec 22) (rd : Reg) : fieldImm22 (wordSethi imm22 rd) = imm22 := by
  simp [fieldImm22, wordSethi, BitVec.extractLsb'_or, extract_placed_disjoint (0b00#2) 30 0 22 (by decide), extract_placed_disjoint (rd) 25 0 22 (by decide), extract_placed_disjoint (0b100#3) 22 0 22 (by decide), extract_placed_same (imm22) 0 (by decide)]

@[simp] theorem fieldRd_wordSethi (imm22 : BitVec 22) (rd : Reg) : fieldRd (wordSethi imm22 rd) = rd := by
  simp [fieldRd, wordSethi, BitVec.extractLsb'_or, extract_placed_disjoint (0b00#2) 30 25 5 (by decide), extract_placed_same (rd) 25 (by decide), extract_placed_disjoint (0b100#3) 22 25 5 (by decide), extract_placed_disjoint (imm22) 0 25 5 (by decide)]

@[simp] theorem fieldOp_wordBranch (op2 : BitVec 3) (cond : BitVec 4) (annul : Bool) (disp22 : BitVec 22) : fieldOp (wordBranch op2 cond annul disp22) = 0 := by
  simp [fieldOp, wordBranch, BitVec.extractLsb'_or, extract_placed_same (0b00#2) 30 (by decide), extract_placed_disjoint (BitVec.ofBool annul) 29 30 2 (by decide), extract_placed_disjoint (cond) 25 30 2 (by decide), extract_placed_disjoint (op2) 22 30 2 (by decide), extract_placed_disjoint (disp22) 0 30 2 (by decide)]

@[simp] theorem fieldOp2_wordBranch (op2 : BitVec 3) (cond : BitVec 4) (annul : Bool) (disp22 : BitVec 22) : fieldOp2 (wordBranch op2 cond annul disp22) = op2 := by
  simp [fieldOp2, wordBranch, BitVec.extractLsb'_or, extract_placed_disjoint (0b00#2) 30 22 3 (by decide), extract_placed_disjoint (BitVec.ofBool annul) 29 22 3 (by decide), extract_placed_disjoint (cond) 25 22 3 (by decide), extract_placed_same (op2) 22 (by decide), extract_placed_disjoint (disp22) 0 22 3 (by decide)]

@[simp] theorem fieldCond_wordBranch (op2 : BitVec 3) (cond : BitVec 4) (annul : Bool) (disp22 : BitVec 22) : fieldCond (wordBranch op2 cond annul disp22) = cond := by
  simp [fieldCond, wordBranch, BitVec.extractLsb'_or, extract_placed_disjoint (0b00#2) 30 25 4 (by decide), extract_placed_disjoint (BitVec.ofBool annul) 29 25 4 (by decide), extract_placed_same (cond) 25 (by decide), extract_placed_disjoint (op2) 22 25 4 (by decide), extract_placed_disjoint (disp22) 0 25 4 (by decide)]

@[simp] theorem fieldAnnul_wordBranch (op2 : BitVec 3) (cond : BitVec 4) (annul : Bool) (disp22 : BitVec 22) : fieldAnnul (wordBranch op2 cond annul disp22) = annul := by
  apply getLsbD_of_extract
  simp [wordBranch, BitVec.extractLsb'_or, extract_placed_disjoint (0b00#2) 30 29 1 (by decide), extract_placed_same (BitVec.ofBool annul) 29 (by decide), extract_placed_disjoint (cond) 25 29 1 (by decide), extract_placed_disjoint (op2) 22 29 1 (by decide), extract_placed_disjoint (disp22) 0 29 1 (by decide)]

@[simp] theorem fieldImm22_wordBranch (op2 : BitVec 3) (cond : BitVec 4) (annul : Bool) (disp22 : BitVec 22) : fieldImm22 (wordBranch op2 cond annul disp22) = disp22 := by
  simp [fieldImm22, wordBranch, BitVec.extractLsb'_or, extract_placed_disjoint (0b00#2) 30 0 22 (by decide), extract_placed_disjoint (BitVec.ofBool annul) 29 0 22 (by decide), extract_placed_disjoint (cond) 25 0 22 (by decide), extract_placed_disjoint (op2) 22 0 22 (by decide), extract_placed_same (disp22) 0 (by decide)]

/-! ### Format 3, shapes 3a and 3b -/

@[simp] theorem fieldOp_wordOperand_reg (op : BitVec 2) (op3 : BitVec 6) (rs1 rd : Reg) (rs2 : Reg) : fieldOp (wordOperand op op3 rs1 (.reg rs2) rd) = op := by
  simp [fieldOp, wordOperand, BitVec.extractLsb'_or, extract_placed_same (op) 30 (by decide), extract_placed_disjoint (rd) 25 30 2 (by decide), extract_placed_disjoint (op3) 19 30 2 (by decide), extract_placed_disjoint (rs1) 14 30 2 (by decide), extract_placed_disjoint (0#1) 13 30 2 (by decide), extract_placed_disjoint (rs2) 0 30 2 (by decide)]

@[simp] theorem fieldOp3_wordOperand_reg (op : BitVec 2) (op3 : BitVec 6) (rs1 rd : Reg) (rs2 : Reg) : fieldOp3 (wordOperand op op3 rs1 (.reg rs2) rd) = op3 := by
  simp [fieldOp3, wordOperand, BitVec.extractLsb'_or, extract_placed_disjoint (op) 30 19 6 (by decide), extract_placed_disjoint (rd) 25 19 6 (by decide), extract_placed_same (op3) 19 (by decide), extract_placed_disjoint (rs1) 14 19 6 (by decide), extract_placed_disjoint (0#1) 13 19 6 (by decide), extract_placed_disjoint (rs2) 0 19 6 (by decide)]

@[simp] theorem fieldRs1_wordOperand_reg (op : BitVec 2) (op3 : BitVec 6) (rs1 rd : Reg) (rs2 : Reg) : fieldRs1 (wordOperand op op3 rs1 (.reg rs2) rd) = rs1 := by
  simp [fieldRs1, wordOperand, BitVec.extractLsb'_or, extract_placed_disjoint (op) 30 14 5 (by decide), extract_placed_disjoint (rd) 25 14 5 (by decide), extract_placed_disjoint (op3) 19 14 5 (by decide), extract_placed_same (rs1) 14 (by decide), extract_placed_disjoint (0#1) 13 14 5 (by decide), extract_placed_disjoint (rs2) 0 14 5 (by decide)]

@[simp] theorem fieldRd_wordOperand_reg (op : BitVec 2) (op3 : BitVec 6) (rs1 rd : Reg) (rs2 : Reg) : fieldRd (wordOperand op op3 rs1 (.reg rs2) rd) = rd := by
  simp [fieldRd, wordOperand, BitVec.extractLsb'_or, extract_placed_disjoint (op) 30 25 5 (by decide), extract_placed_same (rd) 25 (by decide), extract_placed_disjoint (op3) 19 25 5 (by decide), extract_placed_disjoint (rs1) 14 25 5 (by decide), extract_placed_disjoint (0#1) 13 25 5 (by decide), extract_placed_disjoint (rs2) 0 25 5 (by decide)]

@[simp] theorem fieldI_wordOperand_reg (op : BitVec 2) (op3 : BitVec 6) (rs1 rd : Reg) (rs2 : Reg) : fieldI (wordOperand op op3 rs1 (.reg rs2) rd) = false := by
  apply getLsbD_of_extract
  simp [wordOperand, BitVec.extractLsb'_or, extract_placed_disjoint (op) 30 13 1 (by decide), extract_placed_disjoint (rd) 25 13 1 (by decide), extract_placed_disjoint (op3) 19 13 1 (by decide), extract_placed_disjoint (rs1) 14 13 1 (by decide), extract_placed_same (0#1) 13 (by decide), extract_placed_disjoint (rs2) 0 13 1 (by decide)]

@[simp] theorem fieldReserved_wordOperand_reg (op : BitVec 2) (op3 : BitVec 6) (rs1 rd : Reg) (rs2 : Reg) : fieldReserved (wordOperand op op3 rs1 (.reg rs2) rd) = 0 := by
  simp [fieldReserved, wordOperand, BitVec.extractLsb'_or, extract_placed_disjoint (op) 30 5 8 (by decide), extract_placed_disjoint (rd) 25 5 8 (by decide), extract_placed_disjoint (op3) 19 5 8 (by decide), extract_placed_disjoint (rs1) 14 5 8 (by decide), extract_placed_disjoint (0#1) 13 5 8 (by decide), extract_placed_disjoint (rs2) 0 5 8 (by decide)]

@[simp] theorem fieldRs2_wordOperand_reg (op : BitVec 2) (op3 : BitVec 6) (rs1 rd : Reg) (rs2 : Reg) : fieldRs2 (wordOperand op op3 rs1 (.reg rs2) rd) = rs2 := by
  simp [fieldRs2, wordOperand, BitVec.extractLsb'_or, extract_placed_disjoint (op) 30 0 5 (by decide), extract_placed_disjoint (rd) 25 0 5 (by decide), extract_placed_disjoint (op3) 19 0 5 (by decide), extract_placed_disjoint (rs1) 14 0 5 (by decide), extract_placed_disjoint (0#1) 13 0 5 (by decide), extract_placed_same (rs2) 0 (by decide)]

@[simp] theorem fieldOp_wordOperand_imm (op : BitVec 2) (op3 : BitVec 6) (rs1 rd : Reg) (simm13 : BitVec 13) : fieldOp (wordOperand op op3 rs1 (.imm simm13) rd) = op := by
  simp [fieldOp, wordOperand, BitVec.extractLsb'_or, extract_placed_same (op) 30 (by decide), extract_placed_disjoint (rd) 25 30 2 (by decide), extract_placed_disjoint (op3) 19 30 2 (by decide), extract_placed_disjoint (rs1) 14 30 2 (by decide), extract_placed_disjoint (1#1) 13 30 2 (by decide), extract_placed_disjoint (simm13) 0 30 2 (by decide)]

@[simp] theorem fieldOp3_wordOperand_imm (op : BitVec 2) (op3 : BitVec 6) (rs1 rd : Reg) (simm13 : BitVec 13) : fieldOp3 (wordOperand op op3 rs1 (.imm simm13) rd) = op3 := by
  simp [fieldOp3, wordOperand, BitVec.extractLsb'_or, extract_placed_disjoint (op) 30 19 6 (by decide), extract_placed_disjoint (rd) 25 19 6 (by decide), extract_placed_same (op3) 19 (by decide), extract_placed_disjoint (rs1) 14 19 6 (by decide), extract_placed_disjoint (1#1) 13 19 6 (by decide), extract_placed_disjoint (simm13) 0 19 6 (by decide)]

@[simp] theorem fieldRs1_wordOperand_imm (op : BitVec 2) (op3 : BitVec 6) (rs1 rd : Reg) (simm13 : BitVec 13) : fieldRs1 (wordOperand op op3 rs1 (.imm simm13) rd) = rs1 := by
  simp [fieldRs1, wordOperand, BitVec.extractLsb'_or, extract_placed_disjoint (op) 30 14 5 (by decide), extract_placed_disjoint (rd) 25 14 5 (by decide), extract_placed_disjoint (op3) 19 14 5 (by decide), extract_placed_same (rs1) 14 (by decide), extract_placed_disjoint (1#1) 13 14 5 (by decide), extract_placed_disjoint (simm13) 0 14 5 (by decide)]

@[simp] theorem fieldRd_wordOperand_imm (op : BitVec 2) (op3 : BitVec 6) (rs1 rd : Reg) (simm13 : BitVec 13) : fieldRd (wordOperand op op3 rs1 (.imm simm13) rd) = rd := by
  simp [fieldRd, wordOperand, BitVec.extractLsb'_or, extract_placed_disjoint (op) 30 25 5 (by decide), extract_placed_same (rd) 25 (by decide), extract_placed_disjoint (op3) 19 25 5 (by decide), extract_placed_disjoint (rs1) 14 25 5 (by decide), extract_placed_disjoint (1#1) 13 25 5 (by decide), extract_placed_disjoint (simm13) 0 25 5 (by decide)]

@[simp] theorem fieldI_wordOperand_imm (op : BitVec 2) (op3 : BitVec 6) (rs1 rd : Reg) (simm13 : BitVec 13) : fieldI (wordOperand op op3 rs1 (.imm simm13) rd) = true := by
  apply getLsbD_of_extract
  simp [wordOperand, BitVec.extractLsb'_or, extract_placed_disjoint (op) 30 13 1 (by decide), extract_placed_disjoint (rd) 25 13 1 (by decide), extract_placed_disjoint (op3) 19 13 1 (by decide), extract_placed_disjoint (rs1) 14 13 1 (by decide), extract_placed_same (1#1) 13 (by decide), extract_placed_disjoint (simm13) 0 13 1 (by decide)]

@[simp] theorem fieldSimm13_wordOperand_imm (op : BitVec 2) (op3 : BitVec 6) (rs1 rd : Reg) (simm13 : BitVec 13) : fieldSimm13 (wordOperand op op3 rs1 (.imm simm13) rd) = simm13 := by
  simp [fieldSimm13, wordOperand, BitVec.extractLsb'_or, extract_placed_disjoint (op) 30 0 13 (by decide), extract_placed_disjoint (rd) 25 0 13 (by decide), extract_placed_disjoint (op3) 19 0 13 (by decide), extract_placed_disjoint (rs1) 14 0 13 (by decide), extract_placed_disjoint (1#1) 13 0 13 (by decide), extract_placed_same (simm13) 0 (by decide)]

/-! ### Shifts -/

@[simp] theorem fieldOp_wordShift_reg (op3 : BitVec 6) (rs1 rd : Reg) (rs2 : BitVec 5) : fieldOp (wordShift op3 rs1 (.reg rs2) rd) = 2 := by
  simp [fieldOp, wordShift, BitVec.extractLsb'_or, extract_placed_same (0b10#2) 30 (by decide), extract_placed_disjoint (rd) 25 30 2 (by decide), extract_placed_disjoint (op3) 19 30 2 (by decide), extract_placed_disjoint (rs1) 14 30 2 (by decide), extract_placed_disjoint (0#1) 13 30 2 (by decide), extract_placed_disjoint (rs2) 0 30 2 (by decide)]

@[simp] theorem fieldOp3_wordShift_reg (op3 : BitVec 6) (rs1 rd : Reg) (rs2 : BitVec 5) : fieldOp3 (wordShift op3 rs1 (.reg rs2) rd) = op3 := by
  simp [fieldOp3, wordShift, BitVec.extractLsb'_or, extract_placed_disjoint (0b10#2) 30 19 6 (by decide), extract_placed_disjoint (rd) 25 19 6 (by decide), extract_placed_same (op3) 19 (by decide), extract_placed_disjoint (rs1) 14 19 6 (by decide), extract_placed_disjoint (0#1) 13 19 6 (by decide), extract_placed_disjoint (rs2) 0 19 6 (by decide)]

@[simp] theorem fieldRs1_wordShift_reg (op3 : BitVec 6) (rs1 rd : Reg) (rs2 : BitVec 5) : fieldRs1 (wordShift op3 rs1 (.reg rs2) rd) = rs1 := by
  simp [fieldRs1, wordShift, BitVec.extractLsb'_or, extract_placed_disjoint (0b10#2) 30 14 5 (by decide), extract_placed_disjoint (rd) 25 14 5 (by decide), extract_placed_disjoint (op3) 19 14 5 (by decide), extract_placed_same (rs1) 14 (by decide), extract_placed_disjoint (0#1) 13 14 5 (by decide), extract_placed_disjoint (rs2) 0 14 5 (by decide)]

@[simp] theorem fieldRd_wordShift_reg (op3 : BitVec 6) (rs1 rd : Reg) (rs2 : BitVec 5) : fieldRd (wordShift op3 rs1 (.reg rs2) rd) = rd := by
  simp [fieldRd, wordShift, BitVec.extractLsb'_or, extract_placed_disjoint (0b10#2) 30 25 5 (by decide), extract_placed_same (rd) 25 (by decide), extract_placed_disjoint (op3) 19 25 5 (by decide), extract_placed_disjoint (rs1) 14 25 5 (by decide), extract_placed_disjoint (0#1) 13 25 5 (by decide), extract_placed_disjoint (rs2) 0 25 5 (by decide)]

@[simp] theorem fieldI_wordShift_reg (op3 : BitVec 6) (rs1 rd : Reg) (rs2 : BitVec 5) : fieldI (wordShift op3 rs1 (.reg rs2) rd) = false := by
  apply getLsbD_of_extract
  simp [wordShift, BitVec.extractLsb'_or, extract_placed_disjoint (0b10#2) 30 13 1 (by decide), extract_placed_disjoint (rd) 25 13 1 (by decide), extract_placed_disjoint (op3) 19 13 1 (by decide), extract_placed_disjoint (rs1) 14 13 1 (by decide), extract_placed_same (0#1) 13 (by decide), extract_placed_disjoint (rs2) 0 13 1 (by decide)]

@[simp] theorem fieldReserved_wordShift_reg (op3 : BitVec 6) (rs1 rd : Reg) (rs2 : BitVec 5) : fieldReserved (wordShift op3 rs1 (.reg rs2) rd) = 0 := by
  simp [fieldReserved, wordShift, BitVec.extractLsb'_or, extract_placed_disjoint (0b10#2) 30 5 8 (by decide), extract_placed_disjoint (rd) 25 5 8 (by decide), extract_placed_disjoint (op3) 19 5 8 (by decide), extract_placed_disjoint (rs1) 14 5 8 (by decide), extract_placed_disjoint (0#1) 13 5 8 (by decide), extract_placed_disjoint (rs2) 0 5 8 (by decide)]

@[simp] theorem fieldRs2_wordShift_reg (op3 : BitVec 6) (rs1 rd : Reg) (rs2 : BitVec 5) : fieldRs2 (wordShift op3 rs1 (.reg rs2) rd) = rs2 := by
  simp [fieldRs2, wordShift, BitVec.extractLsb'_or, extract_placed_disjoint (0b10#2) 30 0 5 (by decide), extract_placed_disjoint (rd) 25 0 5 (by decide), extract_placed_disjoint (op3) 19 0 5 (by decide), extract_placed_disjoint (rs1) 14 0 5 (by decide), extract_placed_disjoint (0#1) 13 0 5 (by decide), extract_placed_same (rs2) 0 (by decide)]

@[simp] theorem fieldOp_wordShift_imm (op3 : BitVec 6) (rs1 rd : Reg) (shcnt : BitVec 5) : fieldOp (wordShift op3 rs1 (.imm shcnt) rd) = 2 := by
  simp [fieldOp, wordShift, BitVec.extractLsb'_or, extract_placed_same (0b10#2) 30 (by decide), extract_placed_disjoint (rd) 25 30 2 (by decide), extract_placed_disjoint (op3) 19 30 2 (by decide), extract_placed_disjoint (rs1) 14 30 2 (by decide), extract_placed_disjoint (1#1) 13 30 2 (by decide), extract_placed_disjoint (shcnt) 0 30 2 (by decide)]

@[simp] theorem fieldOp3_wordShift_imm (op3 : BitVec 6) (rs1 rd : Reg) (shcnt : BitVec 5) : fieldOp3 (wordShift op3 rs1 (.imm shcnt) rd) = op3 := by
  simp [fieldOp3, wordShift, BitVec.extractLsb'_or, extract_placed_disjoint (0b10#2) 30 19 6 (by decide), extract_placed_disjoint (rd) 25 19 6 (by decide), extract_placed_same (op3) 19 (by decide), extract_placed_disjoint (rs1) 14 19 6 (by decide), extract_placed_disjoint (1#1) 13 19 6 (by decide), extract_placed_disjoint (shcnt) 0 19 6 (by decide)]

@[simp] theorem fieldRs1_wordShift_imm (op3 : BitVec 6) (rs1 rd : Reg) (shcnt : BitVec 5) : fieldRs1 (wordShift op3 rs1 (.imm shcnt) rd) = rs1 := by
  simp [fieldRs1, wordShift, BitVec.extractLsb'_or, extract_placed_disjoint (0b10#2) 30 14 5 (by decide), extract_placed_disjoint (rd) 25 14 5 (by decide), extract_placed_disjoint (op3) 19 14 5 (by decide), extract_placed_same (rs1) 14 (by decide), extract_placed_disjoint (1#1) 13 14 5 (by decide), extract_placed_disjoint (shcnt) 0 14 5 (by decide)]

@[simp] theorem fieldRd_wordShift_imm (op3 : BitVec 6) (rs1 rd : Reg) (shcnt : BitVec 5) : fieldRd (wordShift op3 rs1 (.imm shcnt) rd) = rd := by
  simp [fieldRd, wordShift, BitVec.extractLsb'_or, extract_placed_disjoint (0b10#2) 30 25 5 (by decide), extract_placed_same (rd) 25 (by decide), extract_placed_disjoint (op3) 19 25 5 (by decide), extract_placed_disjoint (rs1) 14 25 5 (by decide), extract_placed_disjoint (1#1) 13 25 5 (by decide), extract_placed_disjoint (shcnt) 0 25 5 (by decide)]

@[simp] theorem fieldI_wordShift_imm (op3 : BitVec 6) (rs1 rd : Reg) (shcnt : BitVec 5) : fieldI (wordShift op3 rs1 (.imm shcnt) rd) = true := by
  apply getLsbD_of_extract
  simp [wordShift, BitVec.extractLsb'_or, extract_placed_disjoint (0b10#2) 30 13 1 (by decide), extract_placed_disjoint (rd) 25 13 1 (by decide), extract_placed_disjoint (op3) 19 13 1 (by decide), extract_placed_disjoint (rs1) 14 13 1 (by decide), extract_placed_same (1#1) 13 (by decide), extract_placed_disjoint (shcnt) 0 13 1 (by decide)]

@[simp] theorem fieldReserved_wordShift_imm (op3 : BitVec 6) (rs1 rd : Reg) (shcnt : BitVec 5) : fieldReserved (wordShift op3 rs1 (.imm shcnt) rd) = 0 := by
  simp [fieldReserved, wordShift, BitVec.extractLsb'_or, extract_placed_disjoint (0b10#2) 30 5 8 (by decide), extract_placed_disjoint (rd) 25 5 8 (by decide), extract_placed_disjoint (op3) 19 5 8 (by decide), extract_placed_disjoint (rs1) 14 5 8 (by decide), extract_placed_disjoint (1#1) 13 5 8 (by decide), extract_placed_disjoint (shcnt) 0 5 8 (by decide)]

@[simp] theorem fieldRs2_wordShift_imm (op3 : BitVec 6) (rs1 rd : Reg) (shcnt : BitVec 5) : fieldRs2 (wordShift op3 rs1 (.imm shcnt) rd) = shcnt := by
  simp [fieldRs2, wordShift, BitVec.extractLsb'_or, extract_placed_disjoint (0b10#2) 30 0 5 (by decide), extract_placed_disjoint (rd) 25 0 5 (by decide), extract_placed_disjoint (op3) 19 0 5 (by decide), extract_placed_disjoint (rs1) 14 0 5 (by decide), extract_placed_disjoint (1#1) 13 0 5 (by decide), extract_placed_same (shcnt) 0 (by decide)]

/-! ### Format 3, shape 3c -/

@[simp] theorem fieldOp_wordFp (op3 : BitVec 6) (opf : BitVec 9) (rs1 rs2 rd : FReg) : fieldOp (wordFp op3 opf rs1 rs2 rd) = 2 := by
  simp [fieldOp, wordFp, BitVec.extractLsb'_or, extract_placed_same (0b10#2) 30 (by decide), extract_placed_disjoint (rd) 25 30 2 (by decide), extract_placed_disjoint (op3) 19 30 2 (by decide), extract_placed_disjoint (rs1) 14 30 2 (by decide), extract_placed_disjoint (opf) 5 30 2 (by decide), extract_placed_disjoint (rs2) 0 30 2 (by decide)]

@[simp] theorem fieldOp3_wordFp (op3 : BitVec 6) (opf : BitVec 9) (rs1 rs2 rd : FReg) : fieldOp3 (wordFp op3 opf rs1 rs2 rd) = op3 := by
  simp [fieldOp3, wordFp, BitVec.extractLsb'_or, extract_placed_disjoint (0b10#2) 30 19 6 (by decide), extract_placed_disjoint (rd) 25 19 6 (by decide), extract_placed_same (op3) 19 (by decide), extract_placed_disjoint (rs1) 14 19 6 (by decide), extract_placed_disjoint (opf) 5 19 6 (by decide), extract_placed_disjoint (rs2) 0 19 6 (by decide)]

@[simp] theorem fieldRs1_wordFp (op3 : BitVec 6) (opf : BitVec 9) (rs1 rs2 rd : FReg) : fieldRs1 (wordFp op3 opf rs1 rs2 rd) = rs1 := by
  simp [fieldRs1, wordFp, BitVec.extractLsb'_or, extract_placed_disjoint (0b10#2) 30 14 5 (by decide), extract_placed_disjoint (rd) 25 14 5 (by decide), extract_placed_disjoint (op3) 19 14 5 (by decide), extract_placed_same (rs1) 14 (by decide), extract_placed_disjoint (opf) 5 14 5 (by decide), extract_placed_disjoint (rs2) 0 14 5 (by decide)]

@[simp] theorem fieldRs2_wordFp (op3 : BitVec 6) (opf : BitVec 9) (rs1 rs2 rd : FReg) : fieldRs2 (wordFp op3 opf rs1 rs2 rd) = rs2 := by
  simp [fieldRs2, wordFp, BitVec.extractLsb'_or, extract_placed_disjoint (0b10#2) 30 0 5 (by decide), extract_placed_disjoint (rd) 25 0 5 (by decide), extract_placed_disjoint (op3) 19 0 5 (by decide), extract_placed_disjoint (rs1) 14 0 5 (by decide), extract_placed_disjoint (opf) 5 0 5 (by decide), extract_placed_same (rs2) 0 (by decide)]

@[simp] theorem fieldRd_wordFp (op3 : BitVec 6) (opf : BitVec 9) (rs1 rs2 rd : FReg) : fieldRd (wordFp op3 opf rs1 rs2 rd) = rd := by
  simp [fieldRd, wordFp, BitVec.extractLsb'_or, extract_placed_disjoint (0b10#2) 30 25 5 (by decide), extract_placed_same (rd) 25 (by decide), extract_placed_disjoint (op3) 19 25 5 (by decide), extract_placed_disjoint (rs1) 14 25 5 (by decide), extract_placed_disjoint (opf) 5 25 5 (by decide), extract_placed_disjoint (rs2) 0 25 5 (by decide)]

@[simp] theorem fieldOpf_wordFp (op3 : BitVec 6) (opf : BitVec 9) (rs1 rs2 rd : FReg) : fieldOpf (wordFp op3 opf rs1 rs2 rd) = opf := by
  simp [fieldOpf, wordFp, BitVec.extractLsb'_or, extract_placed_disjoint (0b10#2) 30 5 9 (by decide), extract_placed_disjoint (rd) 25 5 9 (by decide), extract_placed_disjoint (op3) 19 5 9 (by decide), extract_placed_disjoint (rs1) 14 5 9 (by decide), extract_placed_same (opf) 5 (by decide), extract_placed_disjoint (rs2) 0 5 9 (by decide)]

end Sys2Proof
end

