-- ==== Sys2Proof/Laws/Memory.lean ====
section
/-! SUPPORT. Reading memory after a write, and the canonical form every write keeps (spec 10_state.md R42, 20_memory.md R52). -/

namespace Sys2Proof.Machine

/-! ### One byte -/

theorem lookupCell_of_lt (cells : List Host.Cell) (x : Nat) (h : ∀ c ∈ cells, x < c.1) : lookupCell cells x = unlistedByte := by
  induction cells with
  | nil => rfl
  | cons c rest ih =>
    have hc := h c (by simp)
    have hne : x ≠ c.1 := by omega
    simp only [lookupCell, if_neg hne]
    exact ih fun d hd => h d (by simp [hd])

/-- Reading an address after a store to one, in a list with rising addresses. -/
theorem lookupCell_storeCell (x : Nat) (v : Byte) (cells : List Host.Cell) (h : cells.Pairwise (fun c d => c.1 < d.1)) (y : Nat) :
    lookupCell (storeCell x v cells) y = if y = x then v else lookupCell cells y := by
  induction cells with
  | nil =>
    by_cases hv : v = unlistedByte <;> by_cases hy : y = x <;> simp [storeCell, lookupCell, hv, hy]
  | cons c rest ih =>
    obtain ⟨a, b⟩ := c
    rw [List.pairwise_cons] at h
    have hlow : lookupCell rest a = unlistedByte := lookupCell_of_lt rest a h.1
    have hlow' : x < a → lookupCell rest x = unlistedByte := fun hx =>
      lookupCell_of_lt rest x fun d hd => lt_trans hx (h.1 d hd)
    have ih := ih h.2
    simp only [storeCell]
    split
    · rename_i hx
      split <;> by_cases hy : y = x <;> simp_all [lookupCell]
      omega
    · split
      · split <;> by_cases hy : y = x <;> simp_all [lookupCell]
      · simp only [lookupCell, ih]
        by_cases hya : y = a <;> by_cases hyx : y = x <;> simp_all

/-- A store adds no address but its own. -/
theorem mem_storeCell {x : Nat} {v : Byte} {cells : List Host.Cell} {c : Host.Cell} (h : c ∈ storeCell x v cells) :
    c ∈ cells ∨ (c = (x, v) ∧ v ≠ unlistedByte) := by
  induction cells with
  | nil =>
    simp only [storeCell] at h
    split at h <;> simp_all
  | cons d rest ih =>
    obtain ⟨a, b⟩ := d
    simp only [storeCell] at h
    split at h
    · split at h
      · exact .inl h
      · rcases List.mem_cons.1 h with rfl | h'
        · exact .inr ⟨rfl, ‹_›⟩
        · exact .inl h'
    · split at h
      · split at h
        · exact .inl (List.mem_cons_of_mem _ h)
        · rcases List.mem_cons.1 h with rfl | h'
          · exact .inr ⟨rfl, ‹_›⟩
          · exact .inl (List.mem_cons_of_mem _ h')
      · rcases List.mem_cons.1 h with rfl | h'
        · exact .inl (by simp)
        · exact (ih h').imp_left (List.mem_cons_of_mem _)

theorem pairwise_storeCell (x : Nat) (v : Byte) (cells : List Host.Cell) (h : cells.Pairwise (fun c d => c.1 < d.1)) :
    (storeCell x v cells).Pairwise (fun c d => c.1 < d.1) := by
  induction cells with
  | nil => simp only [storeCell]; split <;> simp
  | cons d rest ih =>
    obtain ⟨a, b⟩ := d
    have hcons := List.pairwise_cons.1 h
    simp only [storeCell]
    split
    · rename_i hx
      split
      · exact h
      · refine List.pairwise_cons.2 ⟨fun c hc => ?_, h⟩
        rcases List.mem_cons.1 hc with rfl | hc
        · exact hx
        · exact lt_trans hx (hcons.1 c hc)
    · split
      · rename_i hx
        split
        · exact hcons.2
        · exact List.pairwise_cons.2 ⟨fun c hc => by simpa [hx] using hcons.1 c hc, hcons.2⟩
      · rename_i hlt hne
        refine List.pairwise_cons.2 ⟨fun c hc => ?_, ih hcons.2⟩
        rcases mem_storeCell hc with hc | ⟨rfl, -⟩
        · exact hcons.1 c hc
        · show a < x
          omega

/-- Every write of one byte keeps the canonical form. -/
theorem Memory.wf_writeByte {m : Memory} (h : m.wf) (a : Word) (v : Byte) : (m.writeByte a v).wf := by
  refine ⟨pairwise_storeCell _ _ _ h.1, fun c hc => ?_⟩
  rcases mem_storeCell hc with hc | ⟨rfl, hv⟩
  · exact h.2 c hc
  · exact ⟨hv, a.isLt⟩

theorem Memory.wf_empty : Memory.empty.wf := ⟨List.Pairwise.nil, by simp [Memory.empty]⟩

/-- `M[b]` after `M[a] <- v` (R42). -/
theorem Memory.readByte_writeByte {m : Memory} (h : m.wf) (a b : Word) (v : Byte) :
    (m.writeByte a v).readByte b = if b = a then v else m.readByte b := by
  unfold Memory.readByte Memory.writeByte
  rw [lookupCell_storeCell _ _ _ h.1]
  by_cases hb : b = a
  · simp [hb]
  · simp [hb, mt BitVec.eq_of_toNat_eq hb]

/-! ### Wider writes -/

/-- Bits of a slice are bits of the whole. -/
theorem extract_extract {w lo n l k : Nat} (v : BitVec w) (h : l + k ≤ n) :
    (v.extractLsb' lo n).extractLsb' l k = v.extractLsb' (lo + l) k := by
  apply BitVec.eq_of_getLsbD_eq
  intro i hi
  simp only [BitVec.getLsbD_extractLsb', hi, decide_true, Bool.true_and]
  rw [show lo + (l + i) = lo + l + i by omega]
  simp [show l + i < n by omega]

theorem Memory.wf_writeHalf {m : Memory} (h : m.wf) (a : Word) (v : Half) : (m.writeHalf a v).wf :=
  Memory.wf_writeByte (Memory.wf_writeByte h _ _) _ _

theorem Memory.wf_writeWord {m : Memory} (h : m.wf) (a : Word) (v : Word) : (m.writeWord a v).wf :=
  Memory.wf_writeHalf (Memory.wf_writeHalf h _ _) _ _

theorem Memory.wf_writeDword {m : Memory} (h : m.wf) (a : Word) (v : Dword) : (m.writeDword a v).wf :=
  Memory.wf_writeWord (Memory.wf_writeWord h _ _) _ _

/-- Each byte after a halfword write (R52). -/
theorem Memory.readByte_writeHalf {m : Memory} (h : m.wf) (a b : Word) (v : Half) :
    (m.writeHalf a v).readByte b =
      if b = a + 1 then v.extractLsb' 0 8 else if b = a then v.extractLsb' 8 8 else m.readByte b := by
  rw [Memory.writeHalf, Memory.readByte_writeByte (Memory.wf_writeByte h _ _), Memory.readByte_writeByte h]

/-- Each byte after a word write (R52). -/
theorem Memory.readByte_writeWord {m : Memory} (h : m.wf) (a b : Word) (v : Word) :
    (m.writeWord a v).readByte b =
      if b = a + 3 then v.extractLsb' 0 8 else if b = a + 2 then v.extractLsb' 8 8
      else if b = a + 1 then v.extractLsb' 16 8 else if b = a then v.extractLsb' 24 8 else m.readByte b := by
  rw [Memory.writeWord, Memory.readByte_writeHalf (Memory.wf_writeHalf h _ _), Memory.readByte_writeHalf h]
  have e : a + 2 + 1 = a + 3 := by rw [BitVec.add_assoc]; rfl
  simp only [e, extract_extract v (by decide : 0 + 8 ≤ 16), extract_extract v (by decide : 8 + 8 ≤ 16), Nat.reduceAdd]

/-- Each byte after a doubleword write (R52). -/
theorem Memory.readByte_writeDword {m : Memory} (h : m.wf) (a b : Word) (v : Dword) :
    (m.writeDword a v).readByte b =
      if b = a + 7 then v.extractLsb' 0 8 else if b = a + 6 then v.extractLsb' 8 8
      else if b = a + 5 then v.extractLsb' 16 8 else if b = a + 4 then v.extractLsb' 24 8
      else if b = a + 3 then v.extractLsb' 32 8 else if b = a + 2 then v.extractLsb' 40 8
      else if b = a + 1 then v.extractLsb' 48 8 else if b = a then v.extractLsb' 56 8 else m.readByte b := by
  rw [Memory.writeDword, Memory.readByte_writeWord (Memory.wf_writeWord h _ _), Memory.readByte_writeWord h]
  have e1 : a + 4 + 1 = a + 5 := by rw [BitVec.add_assoc]; rfl
  have e2 : a + 4 + 2 = a + 6 := by rw [BitVec.add_assoc]; rfl
  have e3 : a + 4 + 3 = a + 7 := by rw [BitVec.add_assoc]; rfl
  simp only [e1, e2, e3, highWord, lowWord, extract_extract v (by decide : 0 + 8 ≤ 32), extract_extract v (by decide : 8 + 8 ≤ 32),
    extract_extract v (by decide : 16 + 8 ≤ 32), extract_extract v (by decide : 24 + 8 ≤ 32), Nat.reduceAdd]

/-! ### Loading -/

theorem Memory.wf_writeBytes (bs : List Byte) {m : Memory} (h : m.wf) (a : Word) : (m.writeBytes a bs).wf := by
  induction bs generalizing m a with
  | nil => exact h
  | cons b bs ih => exact ih (Memory.wf_writeByte h a b) (a + 1)

theorem Memory.wf_load {m : Memory} (h : m.wf) (gs : List Segment) : (m.load gs).wf := by
  induction gs with
  | nil => exact h
  | cons g gs ih => exact Memory.wf_writeBytes _ ih _

theorem add_ofNat_succ (a : Word) (k : Nat) : a + BitVec.ofNat 32 (k + 1) = a + 1 + BitVec.ofNat 32 k := by
  rw [BitVec.ofNat_add, BitVec.add_assoc, BitVec.add_comm (1 : Word)]
  rfl

/-- Writing bytes leaves every other address alone. -/
theorem Memory.readByte_writeBytes_of_ne (bs : List Byte) {m : Memory} (h : m.wf) (a b : Word)
    (hb : ∀ k < bs.length, b ≠ a + BitVec.ofNat 32 k) : (m.writeBytes a bs).readByte b = m.readByte b := by
  induction bs generalizing m a with
  | nil => rfl
  | cons v bs ih =>
    have h0 : b ≠ a := by simpa using hb 0 (by simp)
    rw [Memory.writeBytes, ih (Memory.wf_writeByte h a v), Memory.readByte_writeByte h, if_neg h0]
    intro k hk
    have := hb (k + 1) (by simpa using hk)
    rwa [add_ofNat_succ] at this

/-- The bytes written are there, when they are no more than the address space has. -/
theorem Memory.readByte_writeBytes (bs : List Byte) {m : Memory} (h : m.wf) (a : Word) (hn : bs.length ≤ 2 ^ 32) (k : Nat)
    (hk : k < bs.length) : (m.writeBytes a bs).readByte (a + BitVec.ofNat 32 k) = bs[k] := by
  induction bs generalizing m a k with
  | nil => simp at hk
  | cons v bs ih =>
    simp only [List.length_cons] at hn hk
    cases k with
    | zero =>
      rw [Memory.writeBytes, Memory.readByte_writeBytes_of_ne _ (Memory.wf_writeByte h a v)]
      · simp [Memory.readByte_writeByte h]
      · intro j hj he
        have := congrArg BitVec.toNat he
        simp only [BitVec.toNat_add, BitVec.toNat_ofNat] at this
        have ha := a.isLt
        simp at this
        omega
    | succ k =>
      rw [add_ofNat_succ, Memory.writeBytes]
      simpa using ih (Memory.wf_writeByte h a v) (a + 1) (by omega) k (by omega)

end Sys2Proof.Machine
end

