-- ==== Sys2Proof/Laws/State.lean ====
section
/-! SUPPORT. One lemma for each field and each named update of the state, so that no proof unfolds a record update. -/

namespace Sys2Proof.Machine

/-! ### `writeCell` -/

@[simp] theorem State.params_writeCell (s : State) (c : RegCell) (v : Word) : (s.writeCell c v).params = s.params := by
  cases c <;> rfl
@[simp] theorem State.pc_writeCell (s : State) (c : RegCell) (v : Word) : (s.writeCell c v).pc = s.pc := by
  cases c <;> rfl
@[simp] theorem State.npc_writeCell (s : State) (c : RegCell) (v : Word) : (s.writeCell c v).npc = s.npc := by
  cases c <;> rfl
@[simp] theorem State.icc_writeCell (s : State) (c : RegCell) (v : Word) : (s.writeCell c v).icc = s.icc := by
  cases c <;> rfl
@[simp] theorem State.y_writeCell (s : State) (c : RegCell) (v : Word) : (s.writeCell c v).y = s.y := by
  cases c <;> rfl
@[simp] theorem State.cwp_writeCell (s : State) (c : RegCell) (v : Word) : (s.writeCell c v).cwp = s.cwp := by
  cases c <;> rfl
@[simp] theorem State.wim_writeCell (s : State) (c : RegCell) (v : Word) : (s.writeCell c v).wim = s.wim := by
  cases c <;> rfl
@[simp] theorem State.psr_writeCell (s : State) (c : RegCell) (v : Word) : (s.writeCell c v).psr = s.psr := by
  cases c <;> rfl
@[simp] theorem State.tbrBase_writeCell (s : State) (c : RegCell) (v : Word) : (s.writeCell c v).tbrBase = s.tbrBase := by
  cases c <;> rfl
@[simp] theorem State.tbrTt_writeCell (s : State) (c : RegCell) (v : Word) : (s.writeCell c v).tbrTt = s.tbrTt := by
  cases c <;> rfl
@[simp] theorem State.asr_writeCell (s : State) (c : RegCell) (v : Word) : (s.writeCell c v).asr = s.asr := by
  cases c <;> rfl
@[simp] theorem State.f_writeCell (s : State) (c : RegCell) (v : Word) : (s.writeCell c v).f = s.f := by
  cases c <;> rfl
@[simp] theorem State.fcc_writeCell (s : State) (c : RegCell) (v : Word) : (s.writeCell c v).fcc = s.fcc := by
  cases c <;> rfl
@[simp] theorem State.fsr_writeCell (s : State) (c : RegCell) (v : Word) : (s.writeCell c v).fsr = s.fsr := by
  cases c <;> rfl
@[simp] theorem State.ftt_writeCell (s : State) (c : RegCell) (v : Word) : (s.writeCell c v).ftt = s.ftt := by
  cases c <;> rfl
@[simp] theorem State.aexc_writeCell (s : State) (c : RegCell) (v : Word) : (s.writeCell c v).aexc = s.aexc := by
  cases c <;> rfl
@[simp] theorem State.cexc_writeCell (s : State) (c : RegCell) (v : Word) : (s.writeCell c v).cexc = s.cexc := by
  cases c <;> rfl
@[simp] theorem State.fq_writeCell (s : State) (c : RegCell) (v : Word) : (s.writeCell c v).fq = s.fq := by
  cases c <;> rfl
@[simp] theorem State.mem_writeCell (s : State) (c : RegCell) (v : Word) : (s.writeCell c v).mem = s.mem := by
  cases c <;> rfl
@[simp] theorem State.afterFcmp_writeCell (s : State) (c : RegCell) (v : Word) : (s.writeCell c v).afterFcmp = s.afterFcmp := by
  cases c <;> rfl
@[simp] theorem State.inCondDelay_writeCell (s : State) (c : RegCell) (v : Word) : (s.writeCell c v).inCondDelay = s.inCondDelay := by
  cases c <;> rfl

/-! ### `setRegIn` -/

@[simp] theorem State.params_setRegIn (s : State) (w : BitVec 5) (n : Reg) (v : Word) : (s.setRegIn w n v).params = s.params := by
  simp [State.setRegIn]
@[simp] theorem State.pc_setRegIn (s : State) (w : BitVec 5) (n : Reg) (v : Word) : (s.setRegIn w n v).pc = s.pc := by
  simp [State.setRegIn]
@[simp] theorem State.npc_setRegIn (s : State) (w : BitVec 5) (n : Reg) (v : Word) : (s.setRegIn w n v).npc = s.npc := by
  simp [State.setRegIn]
@[simp] theorem State.icc_setRegIn (s : State) (w : BitVec 5) (n : Reg) (v : Word) : (s.setRegIn w n v).icc = s.icc := by
  simp [State.setRegIn]
@[simp] theorem State.y_setRegIn (s : State) (w : BitVec 5) (n : Reg) (v : Word) : (s.setRegIn w n v).y = s.y := by
  simp [State.setRegIn]
@[simp] theorem State.cwp_setRegIn (s : State) (w : BitVec 5) (n : Reg) (v : Word) : (s.setRegIn w n v).cwp = s.cwp := by
  simp [State.setRegIn]
@[simp] theorem State.wim_setRegIn (s : State) (w : BitVec 5) (n : Reg) (v : Word) : (s.setRegIn w n v).wim = s.wim := by
  simp [State.setRegIn]
@[simp] theorem State.psr_setRegIn (s : State) (w : BitVec 5) (n : Reg) (v : Word) : (s.setRegIn w n v).psr = s.psr := by
  simp [State.setRegIn]
@[simp] theorem State.tbrBase_setRegIn (s : State) (w : BitVec 5) (n : Reg) (v : Word) : (s.setRegIn w n v).tbrBase = s.tbrBase := by
  simp [State.setRegIn]
@[simp] theorem State.tbrTt_setRegIn (s : State) (w : BitVec 5) (n : Reg) (v : Word) : (s.setRegIn w n v).tbrTt = s.tbrTt := by
  simp [State.setRegIn]
@[simp] theorem State.asr_setRegIn (s : State) (w : BitVec 5) (n : Reg) (v : Word) : (s.setRegIn w n v).asr = s.asr := by
  simp [State.setRegIn]
@[simp] theorem State.f_setRegIn (s : State) (w : BitVec 5) (n : Reg) (v : Word) : (s.setRegIn w n v).f = s.f := by
  simp [State.setRegIn]
@[simp] theorem State.fcc_setRegIn (s : State) (w : BitVec 5) (n : Reg) (v : Word) : (s.setRegIn w n v).fcc = s.fcc := by
  simp [State.setRegIn]
@[simp] theorem State.fsr_setRegIn (s : State) (w : BitVec 5) (n : Reg) (v : Word) : (s.setRegIn w n v).fsr = s.fsr := by
  simp [State.setRegIn]
@[simp] theorem State.ftt_setRegIn (s : State) (w : BitVec 5) (n : Reg) (v : Word) : (s.setRegIn w n v).ftt = s.ftt := by
  simp [State.setRegIn]
@[simp] theorem State.aexc_setRegIn (s : State) (w : BitVec 5) (n : Reg) (v : Word) : (s.setRegIn w n v).aexc = s.aexc := by
  simp [State.setRegIn]
@[simp] theorem State.cexc_setRegIn (s : State) (w : BitVec 5) (n : Reg) (v : Word) : (s.setRegIn w n v).cexc = s.cexc := by
  simp [State.setRegIn]
@[simp] theorem State.fq_setRegIn (s : State) (w : BitVec 5) (n : Reg) (v : Word) : (s.setRegIn w n v).fq = s.fq := by
  simp [State.setRegIn]
@[simp] theorem State.mem_setRegIn (s : State) (w : BitVec 5) (n : Reg) (v : Word) : (s.setRegIn w n v).mem = s.mem := by
  simp [State.setRegIn]
@[simp] theorem State.afterFcmp_setRegIn (s : State) (w : BitVec 5) (n : Reg) (v : Word) : (s.setRegIn w n v).afterFcmp = s.afterFcmp := by
  simp [State.setRegIn]
@[simp] theorem State.inCondDelay_setRegIn (s : State) (w : BitVec 5) (n : Reg) (v : Word) : (s.setRegIn w n v).inCondDelay = s.inCondDelay := by
  simp [State.setRegIn]

/-! ### `setReg` -/

@[simp] theorem State.params_setReg (s : State) (n : Reg) (v : Word) : (s.setReg n v).params = s.params := by
  simp [State.setReg]
@[simp] theorem State.pc_setReg (s : State) (n : Reg) (v : Word) : (s.setReg n v).pc = s.pc := by
  simp [State.setReg]
@[simp] theorem State.npc_setReg (s : State) (n : Reg) (v : Word) : (s.setReg n v).npc = s.npc := by
  simp [State.setReg]
@[simp] theorem State.icc_setReg (s : State) (n : Reg) (v : Word) : (s.setReg n v).icc = s.icc := by
  simp [State.setReg]
@[simp] theorem State.y_setReg (s : State) (n : Reg) (v : Word) : (s.setReg n v).y = s.y := by
  simp [State.setReg]
@[simp] theorem State.cwp_setReg (s : State) (n : Reg) (v : Word) : (s.setReg n v).cwp = s.cwp := by
  simp [State.setReg]
@[simp] theorem State.wim_setReg (s : State) (n : Reg) (v : Word) : (s.setReg n v).wim = s.wim := by
  simp [State.setReg]
@[simp] theorem State.psr_setReg (s : State) (n : Reg) (v : Word) : (s.setReg n v).psr = s.psr := by
  simp [State.setReg]
@[simp] theorem State.tbrBase_setReg (s : State) (n : Reg) (v : Word) : (s.setReg n v).tbrBase = s.tbrBase := by
  simp [State.setReg]
@[simp] theorem State.tbrTt_setReg (s : State) (n : Reg) (v : Word) : (s.setReg n v).tbrTt = s.tbrTt := by
  simp [State.setReg]
@[simp] theorem State.asr_setReg (s : State) (n : Reg) (v : Word) : (s.setReg n v).asr = s.asr := by
  simp [State.setReg]
@[simp] theorem State.f_setReg (s : State) (n : Reg) (v : Word) : (s.setReg n v).f = s.f := by
  simp [State.setReg]
@[simp] theorem State.fcc_setReg (s : State) (n : Reg) (v : Word) : (s.setReg n v).fcc = s.fcc := by
  simp [State.setReg]
@[simp] theorem State.fsr_setReg (s : State) (n : Reg) (v : Word) : (s.setReg n v).fsr = s.fsr := by
  simp [State.setReg]
@[simp] theorem State.ftt_setReg (s : State) (n : Reg) (v : Word) : (s.setReg n v).ftt = s.ftt := by
  simp [State.setReg]
@[simp] theorem State.aexc_setReg (s : State) (n : Reg) (v : Word) : (s.setReg n v).aexc = s.aexc := by
  simp [State.setReg]
@[simp] theorem State.cexc_setReg (s : State) (n : Reg) (v : Word) : (s.setReg n v).cexc = s.cexc := by
  simp [State.setReg]
@[simp] theorem State.fq_setReg (s : State) (n : Reg) (v : Word) : (s.setReg n v).fq = s.fq := by
  simp [State.setReg]
@[simp] theorem State.mem_setReg (s : State) (n : Reg) (v : Word) : (s.setReg n v).mem = s.mem := by
  simp [State.setReg]
@[simp] theorem State.afterFcmp_setReg (s : State) (n : Reg) (v : Word) : (s.setReg n v).afterFcmp = s.afterFcmp := by
  simp [State.setReg]
@[simp] theorem State.inCondDelay_setReg (s : State) (n : Reg) (v : Word) : (s.setReg n v).inCondDelay = s.inCondDelay := by
  simp [State.setReg]

/-! ### `setFreg` -/

@[simp] theorem State.params_setFreg (s : State) (n : FReg) (v : Word) : (s.setFreg n v).params = s.params := rfl
@[simp] theorem State.globals_setFreg (s : State) (n : FReg) (v : Word) : (s.setFreg n v).globals = s.globals := rfl
@[simp] theorem State.windows_setFreg (s : State) (n : FReg) (v : Word) : (s.setFreg n v).windows = s.windows := rfl
@[simp] theorem State.pc_setFreg (s : State) (n : FReg) (v : Word) : (s.setFreg n v).pc = s.pc := rfl
@[simp] theorem State.npc_setFreg (s : State) (n : FReg) (v : Word) : (s.setFreg n v).npc = s.npc := rfl
@[simp] theorem State.icc_setFreg (s : State) (n : FReg) (v : Word) : (s.setFreg n v).icc = s.icc := rfl
@[simp] theorem State.y_setFreg (s : State) (n : FReg) (v : Word) : (s.setFreg n v).y = s.y := rfl
@[simp] theorem State.cwp_setFreg (s : State) (n : FReg) (v : Word) : (s.setFreg n v).cwp = s.cwp := rfl
@[simp] theorem State.wim_setFreg (s : State) (n : FReg) (v : Word) : (s.setFreg n v).wim = s.wim := rfl
@[simp] theorem State.psr_setFreg (s : State) (n : FReg) (v : Word) : (s.setFreg n v).psr = s.psr := rfl
@[simp] theorem State.tbrBase_setFreg (s : State) (n : FReg) (v : Word) : (s.setFreg n v).tbrBase = s.tbrBase := rfl
@[simp] theorem State.tbrTt_setFreg (s : State) (n : FReg) (v : Word) : (s.setFreg n v).tbrTt = s.tbrTt := rfl
@[simp] theorem State.asr_setFreg (s : State) (n : FReg) (v : Word) : (s.setFreg n v).asr = s.asr := rfl
@[simp] theorem State.f_setFreg (s : State) (n : FReg) (v : Word) : (s.setFreg n v).f = s.f.set n.toNat v n.isLt := rfl
@[simp] theorem State.fcc_setFreg (s : State) (n : FReg) (v : Word) : (s.setFreg n v).fcc = s.fcc := rfl
@[simp] theorem State.fsr_setFreg (s : State) (n : FReg) (v : Word) : (s.setFreg n v).fsr = s.fsr := rfl
@[simp] theorem State.ftt_setFreg (s : State) (n : FReg) (v : Word) : (s.setFreg n v).ftt = s.ftt := rfl
@[simp] theorem State.aexc_setFreg (s : State) (n : FReg) (v : Word) : (s.setFreg n v).aexc = s.aexc := rfl
@[simp] theorem State.cexc_setFreg (s : State) (n : FReg) (v : Word) : (s.setFreg n v).cexc = s.cexc := rfl
@[simp] theorem State.fq_setFreg (s : State) (n : FReg) (v : Word) : (s.setFreg n v).fq = s.fq := rfl
@[simp] theorem State.mem_setFreg (s : State) (n : FReg) (v : Word) : (s.setFreg n v).mem = s.mem := rfl
@[simp] theorem State.afterFcmp_setFreg (s : State) (n : FReg) (v : Word) : (s.setFreg n v).afterFcmp = s.afterFcmp := rfl
@[simp] theorem State.inCondDelay_setFreg (s : State) (n : FReg) (v : Word) : (s.setFreg n v).inCondDelay = s.inCondDelay := rfl

/-! ### `setDreg` -/

@[simp] theorem State.params_setDreg (s : State) (n : FReg) (v : Dword) : (s.setDreg n v).params = s.params := rfl
@[simp] theorem State.globals_setDreg (s : State) (n : FReg) (v : Dword) : (s.setDreg n v).globals = s.globals := rfl
@[simp] theorem State.windows_setDreg (s : State) (n : FReg) (v : Dword) : (s.setDreg n v).windows = s.windows := rfl
@[simp] theorem State.pc_setDreg (s : State) (n : FReg) (v : Dword) : (s.setDreg n v).pc = s.pc := rfl
@[simp] theorem State.npc_setDreg (s : State) (n : FReg) (v : Dword) : (s.setDreg n v).npc = s.npc := rfl
@[simp] theorem State.icc_setDreg (s : State) (n : FReg) (v : Dword) : (s.setDreg n v).icc = s.icc := rfl
@[simp] theorem State.y_setDreg (s : State) (n : FReg) (v : Dword) : (s.setDreg n v).y = s.y := rfl
@[simp] theorem State.cwp_setDreg (s : State) (n : FReg) (v : Dword) : (s.setDreg n v).cwp = s.cwp := rfl
@[simp] theorem State.wim_setDreg (s : State) (n : FReg) (v : Dword) : (s.setDreg n v).wim = s.wim := rfl
@[simp] theorem State.psr_setDreg (s : State) (n : FReg) (v : Dword) : (s.setDreg n v).psr = s.psr := rfl
@[simp] theorem State.tbrBase_setDreg (s : State) (n : FReg) (v : Dword) : (s.setDreg n v).tbrBase = s.tbrBase := rfl
@[simp] theorem State.tbrTt_setDreg (s : State) (n : FReg) (v : Dword) : (s.setDreg n v).tbrTt = s.tbrTt := rfl
@[simp] theorem State.asr_setDreg (s : State) (n : FReg) (v : Dword) : (s.setDreg n v).asr = s.asr := rfl
@[simp] theorem State.f_setDreg (s : State) (n : FReg) (v : Dword) : (s.setDreg n v).f = (s.f.set n.toNat (highWord v) n.isLt).set (n + 1).toNat (lowWord v) (n + 1).isLt := rfl
@[simp] theorem State.fcc_setDreg (s : State) (n : FReg) (v : Dword) : (s.setDreg n v).fcc = s.fcc := rfl
@[simp] theorem State.fsr_setDreg (s : State) (n : FReg) (v : Dword) : (s.setDreg n v).fsr = s.fsr := rfl
@[simp] theorem State.ftt_setDreg (s : State) (n : FReg) (v : Dword) : (s.setDreg n v).ftt = s.ftt := rfl
@[simp] theorem State.aexc_setDreg (s : State) (n : FReg) (v : Dword) : (s.setDreg n v).aexc = s.aexc := rfl
@[simp] theorem State.cexc_setDreg (s : State) (n : FReg) (v : Dword) : (s.setDreg n v).cexc = s.cexc := rfl
@[simp] theorem State.fq_setDreg (s : State) (n : FReg) (v : Dword) : (s.setDreg n v).fq = s.fq := rfl
@[simp] theorem State.mem_setDreg (s : State) (n : FReg) (v : Dword) : (s.setDreg n v).mem = s.mem := rfl
@[simp] theorem State.afterFcmp_setDreg (s : State) (n : FReg) (v : Dword) : (s.setDreg n v).afterFcmp = s.afterFcmp := rfl
@[simp] theorem State.inCondDelay_setDreg (s : State) (n : FReg) (v : Dword) : (s.setDreg n v).inCondDelay = s.inCondDelay := rfl

/-! ### `advance` -/

@[simp] theorem State.params_advance (s : State) : (s.advance).params = s.params := rfl
@[simp] theorem State.globals_advance (s : State) : (s.advance).globals = s.globals := rfl
@[simp] theorem State.windows_advance (s : State) : (s.advance).windows = s.windows := rfl
@[simp] theorem State.pc_advance (s : State) : (s.advance).pc = s.npc := rfl
@[simp] theorem State.npc_advance (s : State) : (s.advance).npc = s.npc + 4 := rfl
@[simp] theorem State.icc_advance (s : State) : (s.advance).icc = s.icc := rfl
@[simp] theorem State.y_advance (s : State) : (s.advance).y = s.y := rfl
@[simp] theorem State.cwp_advance (s : State) : (s.advance).cwp = s.cwp := rfl
@[simp] theorem State.wim_advance (s : State) : (s.advance).wim = s.wim := rfl
@[simp] theorem State.psr_advance (s : State) : (s.advance).psr = s.psr := rfl
@[simp] theorem State.tbrBase_advance (s : State) : (s.advance).tbrBase = s.tbrBase := rfl
@[simp] theorem State.tbrTt_advance (s : State) : (s.advance).tbrTt = s.tbrTt := rfl
@[simp] theorem State.asr_advance (s : State) : (s.advance).asr = s.asr := rfl
@[simp] theorem State.f_advance (s : State) : (s.advance).f = s.f := rfl
@[simp] theorem State.fcc_advance (s : State) : (s.advance).fcc = s.fcc := rfl
@[simp] theorem State.fsr_advance (s : State) : (s.advance).fsr = s.fsr := rfl
@[simp] theorem State.ftt_advance (s : State) : (s.advance).ftt = s.ftt := rfl
@[simp] theorem State.aexc_advance (s : State) : (s.advance).aexc = s.aexc := rfl
@[simp] theorem State.cexc_advance (s : State) : (s.advance).cexc = s.cexc := rfl
@[simp] theorem State.fq_advance (s : State) : (s.advance).fq = s.fq := rfl
@[simp] theorem State.mem_advance (s : State) : (s.advance).mem = s.mem := rfl
@[simp] theorem State.afterFcmp_advance (s : State) : (s.advance).afterFcmp = false := rfl
@[simp] theorem State.inCondDelay_advance (s : State) : (s.advance).inCondDelay = false := rfl

/-! ### `jumpDelayed` -/

@[simp] theorem State.params_jumpDelayed (s : State) (target : Word) : (s.jumpDelayed target).params = s.params := rfl
@[simp] theorem State.globals_jumpDelayed (s : State) (target : Word) : (s.jumpDelayed target).globals = s.globals := rfl
@[simp] theorem State.windows_jumpDelayed (s : State) (target : Word) : (s.jumpDelayed target).windows = s.windows := rfl
@[simp] theorem State.pc_jumpDelayed (s : State) (target : Word) : (s.jumpDelayed target).pc = s.npc := rfl
@[simp] theorem State.npc_jumpDelayed (s : State) (target : Word) : (s.jumpDelayed target).npc = target := rfl
@[simp] theorem State.icc_jumpDelayed (s : State) (target : Word) : (s.jumpDelayed target).icc = s.icc := rfl
@[simp] theorem State.y_jumpDelayed (s : State) (target : Word) : (s.jumpDelayed target).y = s.y := rfl
@[simp] theorem State.cwp_jumpDelayed (s : State) (target : Word) : (s.jumpDelayed target).cwp = s.cwp := rfl
@[simp] theorem State.wim_jumpDelayed (s : State) (target : Word) : (s.jumpDelayed target).wim = s.wim := rfl
@[simp] theorem State.psr_jumpDelayed (s : State) (target : Word) : (s.jumpDelayed target).psr = s.psr := rfl
@[simp] theorem State.tbrBase_jumpDelayed (s : State) (target : Word) : (s.jumpDelayed target).tbrBase = s.tbrBase := rfl
@[simp] theorem State.tbrTt_jumpDelayed (s : State) (target : Word) : (s.jumpDelayed target).tbrTt = s.tbrTt := rfl
@[simp] theorem State.asr_jumpDelayed (s : State) (target : Word) : (s.jumpDelayed target).asr = s.asr := rfl
@[simp] theorem State.f_jumpDelayed (s : State) (target : Word) : (s.jumpDelayed target).f = s.f := rfl
@[simp] theorem State.fcc_jumpDelayed (s : State) (target : Word) : (s.jumpDelayed target).fcc = s.fcc := rfl
@[simp] theorem State.fsr_jumpDelayed (s : State) (target : Word) : (s.jumpDelayed target).fsr = s.fsr := rfl
@[simp] theorem State.ftt_jumpDelayed (s : State) (target : Word) : (s.jumpDelayed target).ftt = s.ftt := rfl
@[simp] theorem State.aexc_jumpDelayed (s : State) (target : Word) : (s.jumpDelayed target).aexc = s.aexc := rfl
@[simp] theorem State.cexc_jumpDelayed (s : State) (target : Word) : (s.jumpDelayed target).cexc = s.cexc := rfl
@[simp] theorem State.fq_jumpDelayed (s : State) (target : Word) : (s.jumpDelayed target).fq = s.fq := rfl
@[simp] theorem State.mem_jumpDelayed (s : State) (target : Word) : (s.jumpDelayed target).mem = s.mem := rfl
@[simp] theorem State.afterFcmp_jumpDelayed (s : State) (target : Word) : (s.jumpDelayed target).afterFcmp = false := rfl
@[simp] theorem State.inCondDelay_jumpDelayed (s : State) (target : Word) : (s.jumpDelayed target).inCondDelay = false := rfl

/-! ### `branchState` -/

@[simp] theorem State.params_branchState (s : State) (always annul taken : Bool) (d : BitVec 22) : (branchState s always annul taken d).params = s.params := by
  cases taken <;> cases annul <;> cases always <;> rfl
@[simp] theorem State.globals_branchState (s : State) (always annul taken : Bool) (d : BitVec 22) : (branchState s always annul taken d).globals = s.globals := by
  cases taken <;> cases annul <;> cases always <;> rfl
@[simp] theorem State.windows_branchState (s : State) (always annul taken : Bool) (d : BitVec 22) : (branchState s always annul taken d).windows = s.windows := by
  cases taken <;> cases annul <;> cases always <;> rfl
@[simp] theorem State.icc_branchState (s : State) (always annul taken : Bool) (d : BitVec 22) : (branchState s always annul taken d).icc = s.icc := by
  cases taken <;> cases annul <;> cases always <;> rfl
@[simp] theorem State.y_branchState (s : State) (always annul taken : Bool) (d : BitVec 22) : (branchState s always annul taken d).y = s.y := by
  cases taken <;> cases annul <;> cases always <;> rfl
@[simp] theorem State.cwp_branchState (s : State) (always annul taken : Bool) (d : BitVec 22) : (branchState s always annul taken d).cwp = s.cwp := by
  cases taken <;> cases annul <;> cases always <;> rfl
@[simp] theorem State.wim_branchState (s : State) (always annul taken : Bool) (d : BitVec 22) : (branchState s always annul taken d).wim = s.wim := by
  cases taken <;> cases annul <;> cases always <;> rfl
@[simp] theorem State.psr_branchState (s : State) (always annul taken : Bool) (d : BitVec 22) : (branchState s always annul taken d).psr = s.psr := by
  cases taken <;> cases annul <;> cases always <;> rfl
@[simp] theorem State.tbrBase_branchState (s : State) (always annul taken : Bool) (d : BitVec 22) : (branchState s always annul taken d).tbrBase = s.tbrBase := by
  cases taken <;> cases annul <;> cases always <;> rfl
@[simp] theorem State.tbrTt_branchState (s : State) (always annul taken : Bool) (d : BitVec 22) : (branchState s always annul taken d).tbrTt = s.tbrTt := by
  cases taken <;> cases annul <;> cases always <;> rfl
@[simp] theorem State.asr_branchState (s : State) (always annul taken : Bool) (d : BitVec 22) : (branchState s always annul taken d).asr = s.asr := by
  cases taken <;> cases annul <;> cases always <;> rfl
@[simp] theorem State.f_branchState (s : State) (always annul taken : Bool) (d : BitVec 22) : (branchState s always annul taken d).f = s.f := by
  cases taken <;> cases annul <;> cases always <;> rfl
@[simp] theorem State.fcc_branchState (s : State) (always annul taken : Bool) (d : BitVec 22) : (branchState s always annul taken d).fcc = s.fcc := by
  cases taken <;> cases annul <;> cases always <;> rfl
@[simp] theorem State.fsr_branchState (s : State) (always annul taken : Bool) (d : BitVec 22) : (branchState s always annul taken d).fsr = s.fsr := by
  cases taken <;> cases annul <;> cases always <;> rfl
@[simp] theorem State.ftt_branchState (s : State) (always annul taken : Bool) (d : BitVec 22) : (branchState s always annul taken d).ftt = s.ftt := by
  cases taken <;> cases annul <;> cases always <;> rfl
@[simp] theorem State.aexc_branchState (s : State) (always annul taken : Bool) (d : BitVec 22) : (branchState s always annul taken d).aexc = s.aexc := by
  cases taken <;> cases annul <;> cases always <;> rfl
@[simp] theorem State.cexc_branchState (s : State) (always annul taken : Bool) (d : BitVec 22) : (branchState s always annul taken d).cexc = s.cexc := by
  cases taken <;> cases annul <;> cases always <;> rfl
@[simp] theorem State.fq_branchState (s : State) (always annul taken : Bool) (d : BitVec 22) : (branchState s always annul taken d).fq = s.fq := by
  cases taken <;> cases annul <;> cases always <;> rfl
@[simp] theorem State.mem_branchState (s : State) (always annul taken : Bool) (d : BitVec 22) : (branchState s always annul taken d).mem = s.mem := by
  cases taken <;> cases annul <;> cases always <;> rfl
@[simp] theorem State.afterFcmp_branchState (s : State) (always annul taken : Bool) (d : BitVec 22) : (branchState s always annul taken d).afterFcmp = false := by
  cases taken <;> cases annul <;> cases always <;> rfl

/-! ### Reading registers after an update that writes none -/

@[simp] theorem State.readCell_advance (s : State) (c : RegCell) : s.advance.readCell c = s.readCell c := rfl
@[simp] theorem State.cellIn_advance (s : State) (w : BitVec 5) (n : Reg) : s.advance.cellIn w n = s.cellIn w n := rfl
@[simp] theorem State.reg_advance (s : State) (n : Reg) : s.advance.reg n = s.reg n := rfl
@[simp] theorem State.freg_advance (s : State) (n : FReg) : s.advance.freg n = s.freg n := rfl
@[simp] theorem State.dreg_advance (s : State) (n : FReg) : s.advance.dreg n = s.dreg n := rfl
@[simp] theorem State.readCell_jumpDelayed (s : State) (t : Word) (c : RegCell) :
    (s.jumpDelayed t).readCell c = s.readCell c := rfl
@[simp] theorem State.readCell_branchState (s : State) (always annul taken : Bool) (d : BitVec 22) (c : RegCell) :
    (branchState s always annul taken d).readCell c = s.readCell c := by
  cases taken <;> cases annul <;> cases always <;> rfl
@[simp] theorem State.readCell_setFreg (s : State) (n : FReg) (v : Word) (c : RegCell) :
    (s.setFreg n v).readCell c = s.readCell c := rfl
@[simp] theorem State.readCell_setDreg (s : State) (n : FReg) (v : Dword) (c : RegCell) :
    (s.setDreg n v).readCell c = s.readCell c := rfl

end Sys2Proof.Machine
end

