-- ==== Sys2Proof/Laws/Registers.lean ====
section
/-! SUPPORT. Reading a register after writing one, through the cells that names share (spec 10_state.md R21, R23, R37). -/

namespace Sys2Proof.Machine

@[simp] theorem State.readCell_zero (s : State) : s.readCell .zero = 0 := rfl

@[simp] theorem State.writeCell_zero (s : State) (v : Word) : s.writeCell .zero v = s := rfl

/-- Writing a cell changes what that cell reads, unless it is register 0, and what no other cell reads. -/
theorem State.readCell_writeCell (s : State) (c d : RegCell) (v : Word) :
    (s.writeCell c v).readCell d = if d = c ∧ c ≠ .zero then v else s.readCell d := by
  cases c <;> cases d <;>
    simp [State.writeCell, State.readCell, Fin.getElem_fin, Vector.getElem_set, Fin.ext_iff, eq_comm]

theorem State.readCell_writeCell_self (s : State) (c : RegCell) (v : Word) (h : c ≠ .zero) :
    (s.writeCell c v).readCell c = v := by
  simp [State.readCell_writeCell, h]

theorem State.readCell_writeCell_ne (s : State) {c d : RegCell} (v : Word) (h : d ≠ c) :
    (s.writeCell c v).readCell d = s.readCell d := by
  simp [State.readCell_writeCell, h]

/-- Only register 0 names the constant cell (R21). -/
@[simp] theorem regCell_eq_zero_iff (nw : WindowCount) (w : BitVec 5) (n : Reg) : regCell nw w n = .zero ↔ n = 0 := by
  unfold regCell
  by_cases h : n = 0
  · simp [h]
  · by_cases h2 : n.toNat < 8 <;> simp [h2]

@[simp] theorem State.cellIn_eq_zero_iff (s : State) (w : BitVec 5) (n : Reg) : s.cellIn w n = .zero ↔ n = 0 := by
  simp [State.cellIn]

@[simp] theorem State.cell_eq_zero_iff (s : State) (n : Reg) : s.cell n = .zero ↔ n = 0 := by
  simp [State.cell]

@[simp] theorem State.cellIn_setRegIn (s : State) (w w' : BitVec 5) (n m : Reg) (v : Word) :
    (s.setRegIn w n v).cellIn w' m = s.cellIn w' m := by
  simp [State.cellIn]

@[simp] theorem State.cellIn_setReg (s : State) (w : BitVec 5) (n m : Reg) (v : Word) :
    (s.setReg n v).cellIn w m = s.cellIn w m := by
  simp [State.cellIn]

/-- What a write to register `n` of window `w` leaves in every cell. -/
theorem State.readCell_setRegIn (s : State) (w : BitVec 5) (n : Reg) (v : Word) (d : RegCell) :
    (s.setRegIn w n v).readCell d = if d = s.cellIn w n ∧ n ≠ 0 then v else s.readCell d := by
  simp [State.setRegIn, State.readCell_writeCell]

/-- What a write to register `n` of the current window leaves in every cell. -/
theorem State.readCell_setReg (s : State) (n : Reg) (v : Word) (d : RegCell) :
    (s.setReg n v).readCell d = if d = s.cell n ∧ n ≠ 0 then v else s.readCell d := by
  exact s.readCell_setRegIn s.cwp n v d

/-- Reading floating registers after a write (R36). -/
theorem State.freg_setFreg (s : State) (n m : FReg) (v : Word) :
    (s.setFreg n v).freg m = if m = n then v else s.freg m := by
  unfold State.freg State.setFreg
  by_cases h : m = n
  · subst h
    simp
  · have h' : ¬ n.toNat = m.toNat := fun e => h (BitVec.eq_of_toNat_eq e.symm)
    simp [h, h']

@[simp] theorem State.freg_setReg (s : State) (n : Reg) (v : Word) (m : FReg) : (s.setReg n v).freg m = s.freg m := by
  simp [State.freg]

/-! ### Halves of a double word -/

@[simp] theorem highWord_joinWords (hi lo : Word) : highWord (joinWords hi lo) = hi := by
  apply BitVec.eq_of_getLsbD_eq
  intro i hi'
  simp only [highWord, joinWords, BitVec.getLsbD_extractLsb', hi', decide_true, Bool.true_and]
  exact (BitVec.getLsbD_append (x := hi) (y := lo)).trans (by simp)

@[simp] theorem lowWord_joinWords (hi lo : Word) : lowWord (joinWords hi lo) = lo := by
  apply BitVec.eq_of_getLsbD_eq
  intro i hi'
  simp only [lowWord, joinWords, BitVec.getLsbD_extractLsb', hi', decide_true, Bool.true_and]
  exact (BitVec.getLsbD_append (x := hi) (y := lo)).trans (by simp [hi'])

@[simp] theorem joinWords_high_low (d : Dword) : joinWords (highWord d) (lowWord d) = d := by
  apply BitVec.eq_of_getLsbD_eq
  intro i hi'
  refine (BitVec.getLsbD_append (x := highWord d) (y := lowWord d)).trans ?_
  by_cases h : i < 32
  · simp [h, lowWord]
  · simp [h, highWord, show i - 32 < 32 by omega, show 32 + (i - 32) = i by omega]

theorem joinWords_toNat (hi lo : Word) : (joinWords hi lo).toNat = hi.toNat * 2 ^ 32 + lo.toNat := by
  refine (BitVec.toNat_append hi lo).trans ?_
  rw [Nat.shiftLeft_eq, Nat.mul_comm, Nat.two_pow_add_eq_or_of_lt lo.isLt]

/-- `D[n]` after `D[n] <- v`: a pair of distinct registers, for every `n` (R37). -/
@[simp] theorem State.dreg_setDreg (s : State) (n : FReg) (v : Dword) : (s.setDreg n v).dreg n = v := by
  have h : n ≠ n + 1 := by
    intro e
    have : (0 : FReg) = 1 := by
      have := congrArg (fun x => x - n) e
      simp at this
    exact absurd this (by decide)
  simp [State.dreg, State.setDreg, State.freg_setFreg]

end Sys2Proof.Machine
end

