-- ==== Sys2Proof/Laws/Ops.lean ====
section
/-! SUPPORT. For each shared operation, once, everything it can do: which next states it answers, and under which checks. Proofs cite
these instead of unfolding the operation. -/

namespace Sys2Proof.Machine

/-- An answered state is the one the operation names. -/
theorem next_eq_next_iff (s t : State) : (Host.Outcome.next s : Result) = .next t ↔ t = s := by
  simp only [Host.Outcome.next.injEq]
  exact eq_comm

/-! ### Checks: an operation that goes on to `k` answers a next state exactly when its checks pass and `k` does -/

@[simp] theorem raise_ne_next (f : Word → Word → Fault) (s t : State) : raise f s ≠ .next t := by simp [raise]

@[simp] theorem raise_ne_refused (f : Word → Word → Fault) (s : State) (r : Refusal) : raise f s ≠ .refused r := by simp [raise]

theorem raise_eq_fault_iff (f : Word → Word → Fault) (s : State) (e : Fault) : raise f s = .fault e ↔ e = f s.pc s.npc := by
  simp only [raise, Host.Outcome.fault.injEq]
  exact eq_comm

theorem withFpu_eq_next_iff (s : State) (k : Result) (t : State) : withFpu s k = .next t ↔ s.psr.ef = true ∧ k = .next t := by
  unfold withFpu; split <;> simp_all

theorem withFpu_eq_fault_iff (s : State) (k : Result) (e : Fault) :
    withFpu s k = .fault e ↔ (s.psr.ef = true ∧ k = .fault e) ∨ (s.psr.ef = false ∧ e = .fpDisabled s.pc s.npc) := by
  unfold withFpu; split <;> simp_all [raise_eq_fault_iff]

theorem withEven_eq_next_iff (s : State) (regs : List FReg) (k : Result) (t : State) :
    withEven s regs k = .next t ↔ (∀ n ∈ regs, isEven n = true) ∧ k = .next t := by
  unfold withEven; split <;> simp_all

theorem withEven_eq_fault_iff (s : State) (regs : List FReg) (k : Result) (e : Fault) :
    withEven s regs k = .fault e ↔
      ((∀ n ∈ regs, isEven n = true) ∧ k = .fault e) ∨
        ((∃ n ∈ regs, isEven n = false) ∧ e = .fpException s.pc s.npc .invalidFpRegister) := by
  unfold withEven
  split
  · rename_i h
    have h' : ¬ ∃ n ∈ regs, isEven n = false := by
      rintro ⟨n, hn, he⟩
      simp [List.all_eq_true] at h
      simp [h n hn] at he
    simp_all
  · rename_i h
    have h' : ∃ n ∈ regs, isEven n = false := by simpa [List.all_eq_true] using h
    have h'' : ¬ ∀ n ∈ regs, isEven n = true := by
      obtain ⟨n, hn, he⟩ := h'
      exact fun hall => by simp [hall n hn] at he
    rw [raise_eq_fault_iff]
    tauto

theorem withEvenRd_eq_next_iff (s : State) (i : Instr) (rd : Reg) (k : Result) (t : State) :
    withEvenRd s i rd k = .next t ↔ isEven rd = true ∧ k = .next t := by
  unfold withEvenRd; split <;> simp_all

theorem withoutCouple_eq_next_iff (s : State) (k : Result) (t : State) :
    withoutCouple s k = .next t ↔ s.inCondDelay = false ∧ k = .next t := by
  unfold withoutCouple; split <;> simp_all

theorem withDivisor_eq_next_iff (s : State) (b : Word) (k : Result) (t : State) :
    withDivisor s b k = .next t ↔ b ≠ 0 ∧ k = .next t := by
  unfold withDivisor; split <;> simp_all

theorem withAccess_eq_next_iff (s : State) (ea : Word) (size : Nat) (k : Result) (t : State) :
    withAccess s ea size k = .next t ↔ ea.toNat % size = 0 ∧ allBytes s.mapped ea size = true ∧ k = .next t := by
  unfold withAccess; split
  · simp_all
  · split <;> simp_all

theorem withStore_eq_next_iff (s : State) (ea : Word) (size : Nat) (k : Result) (t : State) :
    withStore s ea size k = .next t ↔
      ea.toNat % size = 0 ∧ allBytes s.mapped ea size = true ∧ someByte s.isText ea size = false ∧ k = .next t := by
  rw [withStore, withAccess_eq_next_iff]
  by_cases h : someByte s.isText ea size = true <;> simp [h]

/-- `allBytes` says what its name says. -/
theorem allBytes_eq_true_iff (p : Word → Bool) (a : Word) (n : Nat) :
    allBytes p a n = true ↔ ∀ k < n, p (a + BitVec.ofNat 32 k) = true := by
  induction n with
  | zero => simp [allBytes]
  | succ n ih =>
    simp only [allBytes, Bool.and_eq_true, ih]
    constructor
    · rintro ⟨h, hn⟩ k hk
      rcases Nat.lt_succ_iff_lt_or_eq.1 hk with hk | rfl
      · exact h k hk
      · exact hn
    · exact fun h => ⟨fun k hk => h k (by omega), h n (by omega)⟩

theorem allBytes_eq_false_iff (p : Word → Bool) (a : Word) (n : Nat) :
    allBytes p a n = false ↔ ∃ k < n, p (a + BitVec.ofNat 32 k) = false := by
  rw [← Bool.not_eq_true, allBytes_eq_true_iff]
  simp

/-- `someByte` says what its name says. -/
theorem someByte_eq_true_iff (p : Word → Bool) (a : Word) (n : Nat) :
    someByte p a n = true ↔ ∃ k < n, p (a + BitVec.ofNat 32 k) = true := by
  induction n with
  | zero => simp [someByte]
  | succ n ih =>
    simp only [someByte, Bool.or_eq_true, ih]
    constructor
    · rintro (⟨k, hk, h⟩ | h)
      · exact ⟨k, by omega, h⟩
      · exact ⟨n, by omega, h⟩
    · rintro ⟨k, hk, h⟩
      rcases Nat.lt_succ_iff_lt_or_eq.1 hk with hk | rfl
      · exact .inl ⟨k, hk, h⟩
      · exact .inr h

theorem someByte_eq_false_iff (p : Word → Bool) (a : Word) (n : Nat) :
    someByte p a n = false ↔ ∀ k < n, p (a + BitVec.ofNat 32 k) = false := by
  rw [← Bool.not_eq_true, someByte_eq_true_iff]
  simp

/-! ### Endings -/

theorem finishFpop_eq_next_iff (s : State) (e : IeeeFlags) (t u : State) :
    finishFpop s e t = .next u ↔
      e.meets s.fsr.tem = false ∧ u = { t with cexc := e, aexc := s.aexc.union e, ftt := .none } := by
  unfold finishFpop
  split
  · simp_all
  · rw [next_eq_next_iff]
    simp_all

theorem writeResult_eq_next_iff (s : State) (rd : Reg) (v : Word) (t : State) :
    writeResult s rd v = .next t ↔ t = (s.setReg rd v).advance := by
  rw [writeResult, next_eq_next_iff]

theorem writeResultCc_eq_next_iff (s : State) (rd : Reg) (v : Word) (icc : Icc) (t : State) :
    writeResultCc s rd v icc = .next t ↔ t = { (s.setReg rd v).advance with icc := icc } := by
  rw [writeResultCc, next_eq_next_iff]

/-- With no IEEE trap enabled (D12) an operation's exceptions never trap. -/
@[simp] theorem IeeeFlags.meets_none (e : IeeeFlags) : e.meets .none = false := by simp [IeeeFlags.meets, IeeeFlags.none]

/-! ### Families -/

theorem changeWindow_eq_next_iff (s : State) (new : BitVec 5) (trap : Word → Word → Fault) (rs1 : Reg) (src2 : RegOrImm) (rd : Reg)
    (t : State) :
    changeWindow s new trap rs1 src2 rd = .next t ↔
      s.wim.getLsbD new.toNat = false ∧ t = ({ s with cwp := new }.setRegIn new rd (s.reg rs1 + s.op2 src2)).advance := by
  unfold changeWindow
  split
  · simp_all
  · rw [next_eq_next_iff]
    simp_all

theorem loadInto_eq_next_iff (s : State) (ea : Word) (size : Nat) (rd : Reg) (v : Word) (t : State) :
    loadInto s ea size rd v = .next t ↔
      ea.toNat % size = 0 ∧ allBytes s.mapped ea size = true ∧ t = (s.setReg rd v).advance := by
  rw [loadInto, withAccess_eq_next_iff, next_eq_next_iff]

theorem storeTo_eq_next_iff (s : State) (ea : Word) (size : Nat) (m : Memory) (t : State) :
    storeTo s ea size m = .next t ↔
      ea.toNat % size = 0 ∧ allBytes s.mapped ea size = true ∧ someByte s.isText ea size = false ∧
        t = { s with mem := m }.advance := by
  rw [storeTo, withStore_eq_next_iff, next_eq_next_iff]

theorem fpBinary_eq_next_iff (op : FpOp) (rs1 rs2 rd : FReg) (s t : State) :
    fpBinary op rs1 rs2 rd s = .next t ↔
      s.psr.ef = true ∧ (∀ n ∈ [rs1, rs2, rd], isEven n = true) ∧
        (fpArith s.fsr op (s.dreg rs1) (s.dreg rs2)).flags.meets s.fsr.tem = false ∧
          t = { (s.setDreg rd (fpArith s.fsr op (s.dreg rs1) (s.dreg rs2)).value).advance with
                cexc := (fpArith s.fsr op (s.dreg rs1) (s.dreg rs2)).flags
                aexc := s.aexc.union (fpArith s.fsr op (s.dreg rs1) (s.dreg rs2)).flags
                ftt := .none } := by
  unfold fpBinary
  rw [withFpu_eq_next_iff, withEven_eq_next_iff, finishFpop_eq_next_iff]

theorem fpMove_eq_next_iff (g : Dword → Dword) (rs2 rd : FReg) (s t : State) :
    fpMove g rs2 rd s = .next t ↔
      s.psr.ef = true ∧ (∀ n ∈ [rs2, rd], isEven n = true) ∧
        t = { (s.setDreg rd (g (s.dreg rs2))).advance with cexc := .none, aexc := s.aexc.union .none, ftt := .none } := by
  unfold fpMove
  rw [withFpu_eq_next_iff, withEven_eq_next_iff, finishFpop_eq_next_iff]
  simp [IeeeFlags.meets, IeeeFlags.none]

theorem integerBranchTo_eq_next_iff (s : State) (always annul taken : Bool) (disp22 : BitVec 22) (t : State) :
    integerBranchTo s always annul taken disp22 = .next t ↔
      s.inCondDelay = false ∧ t = branchState s always annul taken disp22 := by
  rw [integerBranchTo, withoutCouple_eq_next_iff, next_eq_next_iff]

theorem floatBranchTo_eq_next_iff (s : State) (always annul taken : Bool) (disp22 : BitVec 22) (t : State) :
    floatBranchTo s always annul taken disp22 = .next t ↔
      s.inCondDelay = false ∧ s.afterFcmp = false ∧ s.psr.ef = true ∧ t = branchState s always annul taken disp22 := by
  unfold floatBranchTo
  rw [withoutCouple_eq_next_iff]
  cases h : s.afterFcmp
  · simp only [Bool.false_eq_true, if_false, withFpu_eq_next_iff, next_eq_next_iff, true_and]
  · simp

theorem fetchWord_eq_ok_iff (s : State) (w : Word) :
    fetchWord s = .ok w ↔ s.pc.toNat % 4 = 0 ∧ allBytes s.mapped s.pc 4 = true ∧ w = s.mem.readWord s.pc := by
  unfold fetchWord
  by_cases h : s.pc.toNat % 4 = 0
  · cases h' : allBytes s.mapped s.pc 4 <;> simp [h, @eq_comm _ w]
  · simp [h]

theorem fetchWord_eq_error_iff (s : State) (e : Fault) :
    fetchWord s = .error e ↔
      (s.pc.toNat % 4 ≠ 0 ∧ e = .memAddressNotAligned s.pc s.npc s.pc) ∨
        (s.pc.toNat % 4 = 0 ∧ allBytes s.mapped s.pc 4 = false ∧ e = .instructionAccessException s.pc s.npc) := by
  unfold fetchWord
  by_cases h : s.pc.toNat % 4 = 0
  · cases h' : allBytes s.mapped s.pc 4 <;> simp [h, @eq_comm _ e]
  · simp [h, @eq_comm _ e]

/-- A word runs to a next state only as an instruction. -/
theorem runWord_eq_next_iff (run : Instr → State → Result) (w : Word) (s t : State) :
    runWord run w s = .next t ↔ ∃ i, decode w = .instr i ∧ run i s = .next t := by
  unfold runWord
  split <;> simp_all [withFpu_eq_next_iff]

/-! ### A branch leaves everything but the program counters and the hidden bits -/

theorem branchState_eq (s : State) (always annul taken : Bool) (disp22 : BitVec 22) :
    branchState s always annul taken disp22 =
      { s with
        pc := (branchState s always annul taken disp22).pc
        npc := (branchState s always annul taken disp22).npc
        inCondDelay := (branchState s always annul taken disp22).inCondDelay
        afterFcmp := false } := by
  unfold branchState
  cases taken <;> cases annul <;> cases always <;> rfl

end Sys2Proof.Machine
end

