-- ==== Sys2Proof/Laws/Frames.lean ====
section
/-! SUPPORT. What each way an instruction ends leaves and changes, in the words of Safety.lean. -/

namespace Sys2Proof.Machine

/-! ### Vocabulary -/

theorem SameConstants.refl (s : State) : SameConstants s s := ⟨rfl, rfl, rfl, rfl, rfl, rfl, rfl, rfl⟩

theorem Part.same_refl (p : Part) (s : State) : p.same s s := by cases p <;> simp [Part.same]

theorem OnlyChanged.refl (parts : List Part) (s : State) : OnlyChanged parts s s :=
  ⟨.refl s, fun p _ => p.same_refl s⟩

/-- A frame may be weakened to more parts. -/
theorem OnlyChanged.mono {parts parts' : List Part} {s t : State} (h : OnlyChanged parts s t) (hsub : ∀ p ∈ parts, p ∈ parts') :
    OnlyChanged parts' s t :=
  ⟨h.constants, fun p hp => h.others p fun hp' => hp (hsub p hp')⟩

theorem State.loadable_iff (s : State) (a : Word) (size : Nat) :
    s.loadable a size ↔ a.toNat % size = 0 ∧ allBytes s.mapped a size = true := by
  rw [allBytes_eq_true_iff]
  exact ⟨fun h => ⟨h.1, h.2⟩, fun h => ⟨h.1, h.2⟩⟩

theorem State.storable_iff (s : State) (a : Word) (size : Nat) :
    s.storable a size ↔ a.toNat % size = 0 ∧ allBytes s.mapped a size = true ∧ someByte s.isText a size = false := by
  rw [someByte_eq_false_iff, ← and_assoc, ← s.loadable_iff]
  exact ⟨fun h => ⟨h.1, h.2⟩, fun h => ⟨h.1, h.2⟩⟩

/-- A fetch finds the word it names. -/
theorem State.fetches.fetchWord_eq {s : State} {w : Word} (h : s.fetches w) : fetchWord s = .ok w := by
  rw [fetchWord_eq_ok_iff, allBytes_eq_true_iff]
  refine ⟨h.aligned, h.mapped, ?_⟩
  rw [h.word, Memory.readWord, Memory.readHalf, Memory.readHalf, wordOfBytes]
  congr 3
  rw [BitVec.add_assoc]
  rfl

/-! ### Writing one register -/

theorem wroteRegister_setRegIn (s : State) (w : BitVec 5) (n : Reg) (v : Word) : WroteRegister w n v s (s.setRegIn w n v) := by
  intro c
  rw [State.readCell_setRegIn]
  simp [and_comm]

theorem wroteRegister_setReg (s : State) (n : Reg) (v : Word) : WroteRegister s.cwp n v s (s.setReg n v) :=
  wroteRegister_setRegIn s s.cwp n v

/-- Registers read the same in states with the same register files. -/
theorem State.readCell_congr {s t : State} (hg : t.globals = s.globals) (hw : t.windows = s.windows) (c : RegCell) :
    t.readCell c = s.readCell c := by
  cases c <;> simp [State.readCell, hg, hw]

theorem advances_advance (s : State) : Advances s s.advance := ⟨rfl, rfl, rfl, rfl⟩

/-- How an instruction without `cc` ends. -/
theorem writeResult_answers (s : State) (rd : Reg) (v : Word) :
    ∃ t, writeResult s rd v = .next t ∧ WroteRegister s.cwp rd v s t ∧ Advances s t ∧ OnlyChanged [.registers] s t := by
  refine ⟨_, rfl, ?_, ?_, ?_⟩
  · intro c
    rw [← wroteRegister_setReg s rd v c]
    exact State.readCell_congr rfl rfl c
  · constructor <;> simp
  · constructor
    · constructor <;> simp
    · intro p hp
      cases p <;> simp_all [Part.same, State.freg]

/-- How a `cc` instruction ends. -/
theorem writeResultCc_answers (s : State) (rd : Reg) (v : Word) (icc : Icc) :
    ∃ t, writeResultCc s rd v icc = .next t ∧ WroteRegister s.cwp rd v s t ∧ t.icc = icc ∧ Advances s t ∧
      OnlyChanged [.registers, .icc] s t := by
  refine ⟨_, rfl, ?_, rfl, ?_, ?_⟩
  · intro c
    rw [← wroteRegister_setReg s rd v c]
    exact State.readCell_congr rfl rfl c
  · constructor <;> simp
  · constructor
    · constructor <;> simp
    · intro p hp
      cases p <;> simp_all [Part.same, State.freg]

/-- How a multiply without `cc` ends. -/
theorem writeResult_y_answers (s : State) (rd : Reg) (v y : Word) :
    ∃ t, writeResult { s with y := y } rd v = .next t ∧ WroteRegister s.cwp rd v s t ∧ t.y = y ∧ Advances s t ∧
      OnlyChanged [.registers, .y] s t := by
  refine ⟨_, rfl, ?_, ?_, ?_, ?_⟩
  · intro c
    exact (State.readCell_congr rfl rfl c).trans (wroteRegister_setReg { s with y := y } rd v c)
  · simp
  · constructor <;> simp
  · constructor
    · constructor <;> simp
    · intro p hp
      cases p <;> simp_all [Part.same, State.freg]

/-- How a multiply with `cc` ends. -/
theorem writeResultCc_y_answers (s : State) (rd : Reg) (v y : Word) (icc : Icc) :
    ∃ t, writeResultCc { s with y := y } rd v icc = .next t ∧ WroteRegister s.cwp rd v s t ∧ t.y = y ∧ t.icc = icc ∧ Advances s t ∧
      OnlyChanged [.registers, .y, .icc] s t := by
  refine ⟨_, rfl, ?_, ?_, rfl, ?_, ?_⟩
  · intro c
    exact (State.readCell_congr rfl rfl c).trans (wroteRegister_setReg { s with y := y } rd v c)
  · simp
  · constructor <;> simp
  · constructor
    · constructor <;> simp
    · intro p hp
      cases p <;> simp_all [Part.same, State.freg]

/-! ### The other endings: as statements about the state they name -/

/-- The state after a change of window. -/
theorem changeWindow_state (s : State) (new : BitVec 5) (rd : Reg) (v : Word) :
    let t := ({ s with cwp := new }.setRegIn new rd v).advance
    t.cwp = new ∧ WroteRegister new rd v s t ∧ Advances s t ∧ OnlyChanged [.registers, .window] s t := by
  refine ⟨by simp, ?_, ?_, ?_⟩
  · intro c
    exact (State.readCell_congr rfl rfl c).trans (wroteRegister_setRegIn { s with cwp := new } new rd v c)
  · constructor <;> simp
  · constructor
    · constructor <;> simp
    · intro p hp
      cases p <;> simp_all [Part.same, State.freg]

/-- The state after a delayed jump that links. -/
theorem jump_state (s : State) (rd : Reg) (target : Word) :
    let t := (s.setReg rd s.pc).jumpDelayed target
    WroteRegister s.cwp rd s.pc s t ∧ JumpsDelayed target s t ∧ OnlyChanged [.registers] s t := by
  refine ⟨?_, ?_, ?_⟩
  · intro c
    exact (State.readCell_congr rfl rfl c).trans (wroteRegister_setReg s rd s.pc c)
  · constructor <;> simp
  · constructor
    · constructor <;> simp
    · intro p hp
      cases p <;> simp_all [Part.same, State.freg]

/-- The state after a load of one register. -/
theorem load_state (s : State) (rd : Reg) (v : Word) :
    let t := (s.setReg rd v).advance
    WroteRegister s.cwp rd v s t ∧ Advances s t ∧ OnlyChanged [.registers] s t := by
  obtain ⟨t, ht, h⟩ := writeResult_answers s rd v
  rw [writeResult_eq_next_iff] at ht
  exact ht ▸ h

/-- The state after a store. -/
theorem store_state (s : State) (m : Memory) :
    let t := { s with mem := m }.advance
    t.mem = m ∧ Advances s t ∧ OnlyChanged [.memory] s t := by
  refine ⟨rfl, ⟨rfl, rfl, rfl, rfl⟩, ⟨⟨rfl, rfl, rfl, rfl, rfl, rfl, rfl, rfl⟩, fun p hp => ?_⟩⟩
  cases p <;> first | exact absurd (List.mem_singleton.2 rfl) hp | exact fun c => State.readCell_congr rfl rfl c |
    exact fun _ => rfl | exact rfl | exact ⟨rfl, rfl, rfl⟩

/-- The state after any branch: pc, npc and the hidden bits aside, the state before. -/
theorem branch_state (s : State) (always annul taken : Bool) (disp22 : BitVec 22) :
    OnlyChanged [] s (branchState s always annul taken disp22) := by
  rw [branchState_eq]
  refine ⟨⟨rfl, rfl, rfl, rfl, rfl, rfl, rfl, rfl⟩, fun p _ => ?_⟩
  cases p <;> first | exact fun c => State.readCell_congr rfl rfl c | exact fun _ => rfl | exact rfl | exact ⟨rfl, rfl, rfl⟩

theorem wroteFloat_setFreg (s : State) (n : FReg) (v : Word) : WroteFloat n v s (s.setFreg n v) := fun m => s.freg_setFreg n m v

theorem succ_ne_self (n : FReg) : n ≠ n + 1 := by
  revert n
  decide

theorem wroteDouble_setDreg (s : State) (n : FReg) (v : Dword) : WroteDouble n v s (s.setDreg n v) := by
  intro m
  rw [State.setDreg, State.freg_setFreg, State.freg_setFreg]
  by_cases h : m = n
  · simp [h]
  · by_cases h' : m = n + 1 <;> simp [h, h']

/-- The state after a floating operate instruction that writes a double. -/
theorem fpop_double_state (s : State) (rd : FReg) (v : Dword) (e : IeeeFlags) :
    let t : State := { (s.setDreg rd v).advance with cexc := e, aexc := s.aexc.union e, ftt := .none }
    WroteDouble rd v s t ∧ RaisedFlags e s t ∧ Advances s t ∧ OnlyChanged [.floats, .fpStatus] s t := by
  refine ⟨?_, ⟨rfl, rfl, rfl⟩, ?_, ?_⟩
  · exact wroteDouble_setDreg s rd v
  · constructor <;> simp
  · constructor
    · constructor <;> simp
    · intro p hp
      cases p <;> simp_all [Part.same]
      all_goals exact fun c => State.readCell_congr rfl rfl c

/-- The state after `fdtoi`. -/
theorem fpop_single_state (s : State) (rd : FReg) (v : Word) (e : IeeeFlags) :
    let t : State := { (s.setFreg rd v).advance with cexc := e, aexc := s.aexc.union e, ftt := .none }
    WroteFloat rd v s t ∧ RaisedFlags e s t ∧ Advances s t ∧ OnlyChanged [.floats, .fpStatus] s t := by
  refine ⟨?_, ⟨rfl, rfl, rfl⟩, ?_, ?_⟩
  · exact wroteFloat_setFreg s rd v
  · constructor <;> simp
  · constructor
    · constructor <;> simp
    · intro p hp
      cases p <;> simp_all [Part.same]
      all_goals exact fun c => State.readCell_congr rfl rfl c

/-- The state after a floating load. -/
theorem float_load_state (s : State) (rd : FReg) (v : Dword) :
    let t : State := (s.setDreg rd v).advance
    WroteDouble rd v s t ∧ Advances s t ∧ OnlyChanged [.floats] s t := by
  refine ⟨wroteDouble_setDreg s rd v, ?_, ?_⟩
  · constructor <;> simp
  · constructor
    · constructor <;> simp
    · intro p hp
      cases p <;> simp_all [Part.same]

/-! ### Bytes of memory as numbers -/

/-- The bytes of a concatenation of two values as one number. -/
theorem toNat_append_eq {n m : Nat} (x : BitVec n) (y : BitVec m) : (x ++ y).toNat = x.toNat * 2 ^ m + y.toNat := by
  rw [BitVec.toNat_append, Nat.shiftLeft_eq, Nat.mul_comm, Nat.two_pow_add_eq_or_of_lt y.isLt]

theorem State.bigEndian_one (s : State) (a : Word) : s.bigEndian a 1 = (s.mem.readByte a).toNat := by
  simp [State.bigEndian]

/-- `bigEndian` of a sum: the first bytes are the more significant. -/
theorem State.bigEndian_add (s : State) (a : Word) (n m : Nat) :
    s.bigEndian a (n + m) = s.bigEndian a n * 256 ^ m + s.bigEndian (a + BitVec.ofNat 32 n) m := by
  induction m with
  | zero => simp [State.bigEndian]
  | succ m ih =>
    rw [← Nat.add_assoc, State.bigEndian, ih, State.bigEndian, BitVec.ofNat_add, ← BitVec.add_assoc, Nat.pow_succ]
    ring

theorem State.bigEndian_two (s : State) (a : Word) : s.bigEndian a 2 = (s.mem.readHalf a).toNat := by
  have h := s.bigEndian_add a 1 1
  rw [s.bigEndian_one, s.bigEndian_one] at h
  rw [Memory.readHalf, toNat_append_eq, h]
  rfl

theorem State.bigEndian_four (s : State) (a : Word) : s.bigEndian a 4 = (s.mem.readWord a).toNat := by
  have h := s.bigEndian_add a 2 2
  rw [s.bigEndian_two, s.bigEndian_two] at h
  rw [show (256 : Nat) ^ 2 = 2 ^ 16 from rfl] at h
  exact h.trans (toNat_append_eq (s.mem.readHalf a) (s.mem.readHalf (a + 2))).symm

theorem State.bigEndian_eight (s : State) (a : Word) : s.bigEndian a 8 = (s.mem.readDword a).toNat := by
  have h := s.bigEndian_add a 4 4
  rw [s.bigEndian_four, s.bigEndian_four] at h
  rw [Memory.readDword, joinWords_toNat]
  exact h

theorem isEven_eq (n : BitVec 5) : isEven n = decide (n.toNat % 2 = 0) := by
  revert n
  decide

/-! ### Stops -/

/-- An instruction that makes a checked access faults as a load does. -/
theorem faultsAsLoad_of_withAccess {s : State} {i : Instr} {ea : Word} {size : Nat} {k : Result} (h : exec i s = withAccess s ea size k) :
    FaultsAsLoad i s ea size := by
  refine ⟨fun hm => ?_, fun ha hu => ?_⟩
  · rw [h, withAccess, if_pos hm]
    rfl
  · rw [h, withAccess, if_neg (by simpa using ha), if_neg (by rw [(allBytes_eq_false_iff ..).2 hu]; simp)]
    rfl

theorem stopsAsStore_of_withStore {s : State} {i : Instr} {ea : Word} {size : Nat} {k : Result} (h : exec i s = withStore s ea size k) :
    StopsAsStore i s ea size := by
  refine ⟨faultsAsLoad_of_withAccess h, fun hl ht => ?_⟩
  obtain ⟨h1, h2⟩ := (s.loadable_iff ..).1 hl
  rw [h, withStore, withAccess, if_neg (by simpa using h1), if_pos h2, if_pos ((someByte_eq_true_iff ..).2 ht)]

theorem withEven_of_odd {s : State} {regs : List FReg} (k : Result) (h : ∃ n ∈ regs, n.toNat % 2 = 1) :
    withEven s regs k = .fault (.fpException s.pc s.npc .invalidFpRegister) := by
  obtain ⟨n, hn, ho⟩ := h
  rw [withEven, if_neg]
  · rfl
  · intro hall
    have := List.all_eq_true.1 hall n hn
    simp [isEven_eq, ho] at this

theorem withEven_of_even {s : State} {regs : List FReg} (k : Result) (h : ∀ n ∈ regs, n.toNat % 2 = 0) : withEven s regs k = k := by
  rw [withEven, if_pos]
  exact List.all_eq_true.2 fun n hn => by simp [isEven_eq, h n hn]

/-! ### Bytes a store writes -/

theorem wroteMemory_byte {s t : State} (h : s.mem.wf) (a : Word) (v : Byte) (ht : t.mem = s.mem.writeByte a v) :
    WroteMemory a 1 v s t := by
  constructor
  · intro k hk
    obtain rfl : k = 0 := by omega
    rw [ht, Memory.readByte_writeByte h]
    simp
  · intro b hb
    have := hb 0 (by decide)
    rw [ht, Memory.readByte_writeByte h, if_neg (by simpa using this)]

theorem wroteMemory_half {s t : State} (h : s.mem.wf) (a : Word) (v : Half) (ht : t.mem = s.mem.writeHalf a v) :
    WroteMemory a 2 v s t := by
  have hb : ∀ b, t.mem.readByte b = _ := fun b => ht ▸ Memory.readByte_writeHalf h a b v
  constructor
  · intro k hk
    rw [hb]
    interval_cases k <;> simp
  · intro b hn
    have := hn 0 (by decide)
    have := hn 1 (by decide)
    rw [hb]
    simp_all

theorem wroteMemory_word {s t : State} (h : s.mem.wf) (a : Word) (v : Word) (ht : t.mem = s.mem.writeWord a v) :
    WroteMemory a 4 v s t := by
  have hb : ∀ b, t.mem.readByte b = _ := fun b => ht ▸ Memory.readByte_writeWord h a b v
  constructor
  · intro k hk
    rw [hb]
    interval_cases k <;> simp
  · intro b hn
    have h0 := hn 0 (by decide)
    have h1 := hn 1 (by decide)
    have h2 := hn 2 (by decide)
    have h3 := hn 3 (by decide)
    rw [hb]
    simp_all

theorem wroteMemory_dword {s t : State} (h : s.mem.wf) (a : Word) (v : Dword) (ht : t.mem = s.mem.writeDword a v) :
    WroteMemory a 8 v s t := by
  have hb : ∀ b, t.mem.readByte b = _ := fun b => ht ▸ Memory.readByte_writeDword h a b v
  constructor
  · intro k hk
    rw [hb]
    interval_cases k <;> simp
  · intro b hn
    have h0 := hn 0 (by decide)
    have h1 := hn 1 (by decide)
    have h2 := hn 2 (by decide)
    have h3 := hn 3 (by decide)
    have h4 := hn 4 (by decide)
    have h5 := hn 5 (by decide)
    have h6 := hn 6 (by decide)
    have h7 := hn 7 (by decide)
    rw [hb]
    simp_all

end Sys2Proof.Machine
end

