-- ==== Sys2Proof/Laws/Launch.lean ====
section
/-! SUPPORT. What loading the segments of a launch puts into memory, and which addresses their regions hold, and what setting the
outs of the entry window writes (spec 70_reset_and_hazards.md R361, R362). -/

namespace Sys2Proof.Machine

/-- The address of a byte of a segment that lies in the address space. -/
theorem segment_toNat_add {g : Segment} (hf : g.base.toNat + g.bytes.length ≤ 2 ^ 32) {k : Nat} (hk : k < g.bytes.length) :
    (g.base + BitVec.ofNat 32 k).toNat = g.base.toNat + k := by
  simp only [BitVec.toNat_add, BitVec.toNat_ofNat]
  have := g.base.isLt
  omega

theorem segment_holds_iff {g : Segment} (hf : g.base.toNat + g.bytes.length ≤ 2 ^ 32) (a : Word) :
    g.holds a ↔ g.base.toNat ≤ a.toNat ∧ a.toNat < g.base.toNat + g.bytes.length := by
  constructor
  · rintro ⟨k, hk, rfl⟩; rw [segment_toNat_add hf hk]; omega
  · rintro ⟨h1, h2⟩
    refine ⟨a.toNat - g.base.toNat, by omega, ?_⟩
    apply BitVec.eq_of_toNat_eq
    rw [segment_toNat_add hf (by omega)]; omega

/-- Every byte of every loaded segment is at its address, where no two segments overlap. -/
theorem Memory.readByte_load (gs : List Segment) {m : Memory} (h : m.wf) (hf : ∀ g ∈ gs, g.base.toNat + g.bytes.length ≤ 2 ^ 32)
    (hp : gs.Pairwise Segment.apart) (g : Segment) (hg : g ∈ gs) (k : Nat) (hk : k < g.bytes.length) :
    (m.load gs).readByte (g.base + BitVec.ofNat 32 k) = g.bytes[k] := by
  induction gs with
  | nil => simp at hg
  | cons f fs ih =>
    have hpf := List.pairwise_cons.mp hp
    rw [Memory.load]
    by_cases e : g = f
    · subst e
      exact Memory.readByte_writeBytes _ (Memory.wf_load h _) _ (by have := hf g (by simp); omega) k hk
    · have hg' : g ∈ fs := by simpa [e] using hg
      rw [Memory.readByte_writeBytes_of_ne _ (Memory.wf_load h _)]
      · exact ih (fun x hx => hf x (by simp [hx])) hpf.2 hg'
      · intro j hj hc
        have := congrArg BitVec.toNat hc
        rw [segment_toNat_add (hf g hg) hk, segment_toNat_add (hf f (by simp)) hj] at this
        have := hpf.1 g hg'
        simp only [Segment.apart] at this
        omega

theorem inRegions_append (rs rs' : List Region) (a : Word) : inRegions (rs ++ rs') a = (inRegions rs a || inRegions rs' a) := by
  simp [inRegions]

/-- The regions of segments hold exactly the addresses of the segments. -/
theorem inRegions_segments (gs : List Segment) (hf : ∀ g ∈ gs, g.base.toNat + g.bytes.length ≤ 2 ^ 32) (a : Word) :
    inRegions (gs.map Segment.region) a = true ↔ ∃ g ∈ gs, g.holds a := by
  simp only [inRegions, List.any_map, List.any_eq_true]
  refine exists_congr fun g => and_congr_right fun hg => ?_
  rw [segment_holds_iff (hf g hg) a]
  rw [Function.comp_apply, Bool.and_eq_true]
  exact and_congr decide_eq_true_iff decide_eq_true_iff

/-! ### The outs of the entry window -/

@[simp] theorem getElem_setSlot (cells : Vector Word 512) (k c : Fin 512) (v : Word) :
    (setSlot cells k v)[c] = if c = k then v else cells[c] := by
  simp only [setSlot, Fin.getElem_fin, Vector.getElem_set, Fin.ext_iff, eq_comm]

/-- The eight outs of a window stand in eight slots. -/
theorem windowSlot_outs_inj (nw : WindowCount) (w : Nat) (j k : Fin 8) (h : windowSlot nw w (8 + j.val) = windowSlot nw w (8 + k.val)) :
    j = k := by
  have h' := congrArg Fin.val h
  simp only [windowSlot, Nat.add_sub_cancel_left] at h'
  obtain ⟨n, hn⟩ := nw
  have hj := j.isLt
  have hk := k.isLt
  have e : ∀ i, i < 8 → (16 * w + i) % (16 * n) = 16 * (w % n) + i := by
    intro i hi
    rw [Nat.add_mod, Nat.mul_mod_mul_left, Nat.mod_eq_of_lt (a := i) (by omega), Nat.mod_eq_of_lt]
    have := Nat.mod_lt w (show n > 0 by omega)
    omega
  rw [e _ hj, e _ hk] at h'
  omega

/-- Setting the outs of a window: each out holds its value, and every other slot what it held. -/
theorem getElem_setOuts (nw : WindowCount) (w : Nat) (outs : Vector Word 8) (cells : Vector Word 512) :
    (∀ k : Fin 8, (setOuts nw w outs cells)[windowSlot nw w (8 + k.val)] = outs.get k) ∧
      ∀ c : Fin 512, (∀ k : Fin 8, c ≠ windowSlot nw w (8 + k.val)) → (setOuts nw w outs cells)[c] = cells[c] := by
  have step : ∀ (ks : List (Fin 8)) (cs : Vector Word 512), ks.Nodup →
      (∀ k ∈ ks, (ks.foldl (fun c (k : Fin 8) => setSlot c (windowSlot nw w (8 + k.val)) (outs.get k)) cs)[windowSlot nw w (8 + k.val)] =
        outs.get k) ∧
      ∀ c : Fin 512, (∀ k ∈ ks, c ≠ windowSlot nw w (8 + k.val)) →
        (ks.foldl (fun c (k : Fin 8) => setSlot c (windowSlot nw w (8 + k.val)) (outs.get k)) cs)[c] = cs[c] := by
    intro ks
    induction ks with
    | nil => intro cs _; simp
    | cons j ks ih =>
      intro cs hd
      have hd' := List.nodup_cons.mp hd
      have := ih (setSlot cs (windowSlot nw w (8 + j.val)) (outs.get j)) hd'.2
      refine ⟨fun k hk => ?_, fun c hc => ?_⟩
      · rcases List.mem_cons.mp hk with rfl | hk
        · rw [List.foldl_cons, this.2 _ fun i hi he => hd'.1 (windowSlot_outs_inj nw w k i he ▸ hi), getElem_setSlot, if_pos rfl]
        · exact this.1 k hk
      · rw [List.foldl_cons, this.2 _ fun k hk => hc k (List.mem_cons_of_mem _ hk), getElem_setSlot, if_neg (hc j List.mem_cons_self)]
  have := step (List.finRange 8) cells (List.nodup_finRange 8)
  exact ⟨fun k => this.1 k (List.mem_finRange k), fun c hc => this.2 c fun k _ => hc k⟩

/-- The outs a launch sets: six arguments, `%sp`, the return linkage (R361). -/
theorem outs_get (l : Launch) :
    (∀ (k : Nat) (h : k < 6), l.outs.get ⟨k, by omega⟩ = l.args[k]) ∧ l.outs.get 6 = l.sp ∧ l.outs.get 7 = l.params.haltPc - 8 := by
  have e : ∀ k : Fin 8, l.outs.get k = l.outs[k.val] := fun _ => rfl
  refine ⟨fun k h => ?_, ?_, ?_⟩
  · rw [e]
    simp only [Launch.outs]
    exact Vector.getElem_append_left h
  · rw [e]
    exact Vector.getElem_append_right (xs := l.args) (ys := #v[l.sp, l.params.haltPc - 8]) (i := 6) (by omega) (by omega)
  · rw [e]
    exact Vector.getElem_append_right (xs := l.args) (ys := #v[l.sp, l.params.haltPc - 8]) (i := 7) (by omega) (by omega)

end Sys2Proof.Machine
end

