-- ==== Sys2Proof/Tests/Slice0.lean ====
section
/-! SUPPORT. Tests: the well-formedness check, the decoding of words written out from the spec's encoding tables, single steps from the
vectors of 95_test_vectors.md, and for each obligation with hypotheses a state and operands that meet them. -/

namespace Sys2Proof.Tests

open Sys2Proof Sys2Proof.Machine

/-! ## Well-formedness: the one ill-formed term, and its neighbours -/

theorem test_wellFormed_refuses_sethi_zero : ¬ (Instr.sethi 0 0).WellFormed := by decide
theorem test_wellFormed_accepts_sethi_one : (Instr.sethi 1 0).WellFormed ∧ (Instr.sethi 0 1).WellFormed ∧ Instr.nop.WellFormed := by decide

/-! ## Decoding

One theorem an instruction. A word is `match` of the instruction's row in opcode_table.json with, in the fields of 30_encoding.md R82
to R85, rs1 = 17, rs2 = 9, rd = 10 (floating: rs1 = 6, rs2 = 8, rd = 12), simm13 = -5, shcnt = 29; the first word has i = 0, the
second i = 1. A branch word has disp22 = -3, the second also a = 1. -/

theorem test_decode_add :
    decode 0x94044009 = .instr (.add 17 (.reg 9) 10) ∧
    decode 0x94047FFB = .instr (.add 17 (.imm (-5)) 10) := by decide
theorem test_decode_addcc :
    decode 0x94844009 = .instr (.addcc 17 (.reg 9) 10) ∧
    decode 0x94847FFB = .instr (.addcc 17 (.imm (-5)) 10) := by decide
theorem test_decode_sub :
    decode 0x94244009 = .instr (.sub 17 (.reg 9) 10) ∧
    decode 0x94247FFB = .instr (.sub 17 (.imm (-5)) 10) := by decide
theorem test_decode_subcc :
    decode 0x94A44009 = .instr (.subcc 17 (.reg 9) 10) ∧
    decode 0x94A47FFB = .instr (.subcc 17 (.imm (-5)) 10) := by decide
theorem test_decode_umul :
    decode 0x94544009 = .instr (.umul 17 (.reg 9) 10) ∧
    decode 0x94547FFB = .instr (.umul 17 (.imm (-5)) 10) := by decide
theorem test_decode_umulcc :
    decode 0x94D44009 = .instr (.umulcc 17 (.reg 9) 10) ∧
    decode 0x94D47FFB = .instr (.umulcc 17 (.imm (-5)) 10) := by decide
theorem test_decode_smul :
    decode 0x945C4009 = .instr (.smul 17 (.reg 9) 10) ∧
    decode 0x945C7FFB = .instr (.smul 17 (.imm (-5)) 10) := by decide
theorem test_decode_smulcc :
    decode 0x94DC4009 = .instr (.smulcc 17 (.reg 9) 10) ∧
    decode 0x94DC7FFB = .instr (.smulcc 17 (.imm (-5)) 10) := by decide
theorem test_decode_udiv :
    decode 0x94744009 = .instr (.udiv 17 (.reg 9) 10) ∧
    decode 0x94747FFB = .instr (.udiv 17 (.imm (-5)) 10) := by decide
theorem test_decode_udivcc :
    decode 0x94F44009 = .instr (.udivcc 17 (.reg 9) 10) ∧
    decode 0x94F47FFB = .instr (.udivcc 17 (.imm (-5)) 10) := by decide
theorem test_decode_sdiv :
    decode 0x947C4009 = .instr (.sdiv 17 (.reg 9) 10) ∧
    decode 0x947C7FFB = .instr (.sdiv 17 (.imm (-5)) 10) := by decide
theorem test_decode_sdivcc :
    decode 0x94FC4009 = .instr (.sdivcc 17 (.reg 9) 10) ∧
    decode 0x94FC7FFB = .instr (.sdivcc 17 (.imm (-5)) 10) := by decide
theorem test_decode_and :
    decode 0x940C4009 = .instr (.and 17 (.reg 9) 10) ∧
    decode 0x940C7FFB = .instr (.and 17 (.imm (-5)) 10) := by decide
theorem test_decode_andcc :
    decode 0x948C4009 = .instr (.andcc 17 (.reg 9) 10) ∧
    decode 0x948C7FFB = .instr (.andcc 17 (.imm (-5)) 10) := by decide
theorem test_decode_andn :
    decode 0x942C4009 = .instr (.andn 17 (.reg 9) 10) ∧
    decode 0x942C7FFB = .instr (.andn 17 (.imm (-5)) 10) := by decide
theorem test_decode_andncc :
    decode 0x94AC4009 = .instr (.andncc 17 (.reg 9) 10) ∧
    decode 0x94AC7FFB = .instr (.andncc 17 (.imm (-5)) 10) := by decide
theorem test_decode_or :
    decode 0x94144009 = .instr (.or 17 (.reg 9) 10) ∧
    decode 0x94147FFB = .instr (.or 17 (.imm (-5)) 10) := by decide
theorem test_decode_orcc :
    decode 0x94944009 = .instr (.orcc 17 (.reg 9) 10) ∧
    decode 0x94947FFB = .instr (.orcc 17 (.imm (-5)) 10) := by decide
theorem test_decode_orn :
    decode 0x94344009 = .instr (.orn 17 (.reg 9) 10) ∧
    decode 0x94347FFB = .instr (.orn 17 (.imm (-5)) 10) := by decide
theorem test_decode_orncc :
    decode 0x94B44009 = .instr (.orncc 17 (.reg 9) 10) ∧
    decode 0x94B47FFB = .instr (.orncc 17 (.imm (-5)) 10) := by decide
theorem test_decode_xor :
    decode 0x941C4009 = .instr (.xor 17 (.reg 9) 10) ∧
    decode 0x941C7FFB = .instr (.xor 17 (.imm (-5)) 10) := by decide
theorem test_decode_xorcc :
    decode 0x949C4009 = .instr (.xorcc 17 (.reg 9) 10) ∧
    decode 0x949C7FFB = .instr (.xorcc 17 (.imm (-5)) 10) := by decide
theorem test_decode_xnor :
    decode 0x943C4009 = .instr (.xnor 17 (.reg 9) 10) ∧
    decode 0x943C7FFB = .instr (.xnor 17 (.imm (-5)) 10) := by decide
theorem test_decode_xnorcc :
    decode 0x94BC4009 = .instr (.xnorcc 17 (.reg 9) 10) ∧
    decode 0x94BC7FFB = .instr (.xnorcc 17 (.imm (-5)) 10) := by decide
theorem test_decode_sll :
    decode 0x952C4009 = .instr (.sll 17 (.reg 9) 10) ∧
    decode 0x952C601D = .instr (.sll 17 (.imm 29) 10) := by decide
theorem test_decode_srl :
    decode 0x95344009 = .instr (.srl 17 (.reg 9) 10) ∧
    decode 0x9534601D = .instr (.srl 17 (.imm 29) 10) := by decide
theorem test_decode_sra :
    decode 0x953C4009 = .instr (.sra 17 (.reg 9) 10) ∧
    decode 0x953C601D = .instr (.sra 17 (.imm 29) 10) := by decide
theorem test_decode_nop :
    decode 0x01000000 = .instr .nop := by decide
theorem test_decode_sethi :
    decode 0x152ABCDE = .instr (.sethi 0x2ABCDE 10) := by decide
theorem test_decode_save :
    decode 0x95E44009 = .instr (.save 17 (.reg 9) 10) ∧
    decode 0x95E47FFB = .instr (.save 17 (.imm (-5)) 10) := by decide
theorem test_decode_restore :
    decode 0x95EC4009 = .instr (.restore 17 (.reg 9) 10) ∧
    decode 0x95EC7FFB = .instr (.restore 17 (.imm (-5)) 10) := by decide
theorem test_decode_call :
    decode 0x52345678 = .instr (.call 0x12345678) := by decide
theorem test_decode_jmpl :
    decode 0x95C44009 = .instr (.jmpl 17 (.reg 9) 10) ∧
    decode 0x95C47FFB = .instr (.jmpl 17 (.imm (-5)) 10) := by decide
theorem test_decode_ba :
    decode 0x10BFFFFD = .instr (.ba false (-3)) ∧
    decode 0x30BFFFFD = .instr (.ba true (-3)) := by decide
theorem test_decode_bn :
    decode 0x00BFFFFD = .instr (.bn false (-3)) ∧
    decode 0x20BFFFFD = .instr (.bn true (-3)) := by decide
theorem test_decode_bne :
    decode 0x12BFFFFD = .instr (.bne false (-3)) ∧
    decode 0x32BFFFFD = .instr (.bne true (-3)) := by decide
theorem test_decode_be :
    decode 0x02BFFFFD = .instr (.be false (-3)) ∧
    decode 0x22BFFFFD = .instr (.be true (-3)) := by decide
theorem test_decode_bg :
    decode 0x14BFFFFD = .instr (.bg false (-3)) ∧
    decode 0x34BFFFFD = .instr (.bg true (-3)) := by decide
theorem test_decode_ble :
    decode 0x04BFFFFD = .instr (.ble false (-3)) ∧
    decode 0x24BFFFFD = .instr (.ble true (-3)) := by decide
theorem test_decode_bge :
    decode 0x16BFFFFD = .instr (.bge false (-3)) ∧
    decode 0x36BFFFFD = .instr (.bge true (-3)) := by decide
theorem test_decode_bl :
    decode 0x06BFFFFD = .instr (.bl false (-3)) ∧
    decode 0x26BFFFFD = .instr (.bl true (-3)) := by decide
theorem test_decode_bgu :
    decode 0x18BFFFFD = .instr (.bgu false (-3)) ∧
    decode 0x38BFFFFD = .instr (.bgu true (-3)) := by decide
theorem test_decode_bleu :
    decode 0x08BFFFFD = .instr (.bleu false (-3)) ∧
    decode 0x28BFFFFD = .instr (.bleu true (-3)) := by decide
theorem test_decode_bcc :
    decode 0x1ABFFFFD = .instr (.bcc false (-3)) ∧
    decode 0x3ABFFFFD = .instr (.bcc true (-3)) := by decide
theorem test_decode_bcs :
    decode 0x0ABFFFFD = .instr (.bcs false (-3)) ∧
    decode 0x2ABFFFFD = .instr (.bcs true (-3)) := by decide
theorem test_decode_bpos :
    decode 0x1CBFFFFD = .instr (.bpos false (-3)) ∧
    decode 0x3CBFFFFD = .instr (.bpos true (-3)) := by decide
theorem test_decode_bneg :
    decode 0x0CBFFFFD = .instr (.bneg false (-3)) ∧
    decode 0x2CBFFFFD = .instr (.bneg true (-3)) := by decide
theorem test_decode_bvc :
    decode 0x1EBFFFFD = .instr (.bvc false (-3)) ∧
    decode 0x3EBFFFFD = .instr (.bvc true (-3)) := by decide
theorem test_decode_bvs :
    decode 0x0EBFFFFD = .instr (.bvs false (-3)) ∧
    decode 0x2EBFFFFD = .instr (.bvs true (-3)) := by decide
theorem test_decode_ldsb :
    decode 0xD44C4009 = .instr (.ldsb 17 (.reg 9) 10) ∧
    decode 0xD44C7FFB = .instr (.ldsb 17 (.imm (-5)) 10) := by decide
theorem test_decode_ldsh :
    decode 0xD4544009 = .instr (.ldsh 17 (.reg 9) 10) ∧
    decode 0xD4547FFB = .instr (.ldsh 17 (.imm (-5)) 10) := by decide
theorem test_decode_ldub :
    decode 0xD40C4009 = .instr (.ldub 17 (.reg 9) 10) ∧
    decode 0xD40C7FFB = .instr (.ldub 17 (.imm (-5)) 10) := by decide
theorem test_decode_lduh :
    decode 0xD4144009 = .instr (.lduh 17 (.reg 9) 10) ∧
    decode 0xD4147FFB = .instr (.lduh 17 (.imm (-5)) 10) := by decide
theorem test_decode_ld :
    decode 0xD4044009 = .instr (.ld 17 (.reg 9) 10) ∧
    decode 0xD4047FFB = .instr (.ld 17 (.imm (-5)) 10) := by decide
theorem test_decode_ldd :
    decode 0xD41C4009 = .instr (.ldd 17 (.reg 9) 10) ∧
    decode 0xD41C7FFB = .instr (.ldd 17 (.imm (-5)) 10) := by decide
theorem test_decode_stb :
    decode 0xD42C4009 = .instr (.stb 17 (.reg 9) 10) ∧
    decode 0xD42C7FFB = .instr (.stb 17 (.imm (-5)) 10) := by decide
theorem test_decode_sth :
    decode 0xD4344009 = .instr (.sth 17 (.reg 9) 10) ∧
    decode 0xD4347FFB = .instr (.sth 17 (.imm (-5)) 10) := by decide
theorem test_decode_st :
    decode 0xD4244009 = .instr (.st 17 (.reg 9) 10) ∧
    decode 0xD4247FFB = .instr (.st 17 (.imm (-5)) 10) := by decide
theorem test_decode_std :
    decode 0xD43C4009 = .instr (.std 17 (.reg 9) 10) ∧
    decode 0xD43C7FFB = .instr (.std 17 (.imm (-5)) 10) := by decide
theorem test_decode_faddd :
    decode 0x99A18848 = .instr (.faddd 6 8 12) := by decide
theorem test_decode_fsubd :
    decode 0x99A188C8 = .instr (.fsubd 6 8 12) := by decide
theorem test_decode_fmuld :
    decode 0x99A18948 = .instr (.fmuld 6 8 12) := by decide
theorem test_decode_fdivd :
    decode 0x99A189C8 = .instr (.fdivd 6 8 12) := by decide
theorem test_decode_fmovd :
    decode 0x99A00048 = .instr (.fmovd 8 12) := by decide
theorem test_decode_fnegd :
    decode 0x99A000C8 = .instr (.fnegd 8 12) := by decide
theorem test_decode_fabsd :
    decode 0x99A00148 = .instr (.fabsd 8 12) := by decide
theorem test_decode_fitod :
    decode 0x99A01908 = .instr (.fitod 8 12) := by decide
theorem test_decode_fdtoi :
    decode 0x99A01A48 = .instr (.fdtoi 8 12) := by decide
theorem test_decode_stdf :
    decode 0xD53C4009 = .instr (.stdf 17 (.reg 9) 10) ∧
    decode 0xD53C7FFB = .instr (.stdf 17 (.imm (-5)) 10) := by decide
theorem test_decode_lddf :
    decode 0xD51C4009 = .instr (.lddf 17 (.reg 9) 10) ∧
    decode 0xD51C7FFB = .instr (.lddf 17 (.imm (-5)) 10) := by decide
theorem test_decode_fcmpd :
    decode 0x81A98A48 = .instr (.fcmpd 6 8) := by decide
theorem test_decode_fba :
    decode 0x11BFFFFD = .instr (.fba false (-3)) ∧
    decode 0x31BFFFFD = .instr (.fba true (-3)) := by decide
theorem test_decode_fbn :
    decode 0x01BFFFFD = .instr (.fbn false (-3)) ∧
    decode 0x21BFFFFD = .instr (.fbn true (-3)) := by decide
theorem test_decode_fbu :
    decode 0x0FBFFFFD = .instr (.fbu false (-3)) ∧
    decode 0x2FBFFFFD = .instr (.fbu true (-3)) := by decide
theorem test_decode_fbg :
    decode 0x0DBFFFFD = .instr (.fbg false (-3)) ∧
    decode 0x2DBFFFFD = .instr (.fbg true (-3)) := by decide
theorem test_decode_fbug :
    decode 0x0BBFFFFD = .instr (.fbug false (-3)) ∧
    decode 0x2BBFFFFD = .instr (.fbug true (-3)) := by decide
theorem test_decode_fbl :
    decode 0x09BFFFFD = .instr (.fbl false (-3)) ∧
    decode 0x29BFFFFD = .instr (.fbl true (-3)) := by decide
theorem test_decode_fbul :
    decode 0x07BFFFFD = .instr (.fbul false (-3)) ∧
    decode 0x27BFFFFD = .instr (.fbul true (-3)) := by decide
theorem test_decode_fblg :
    decode 0x05BFFFFD = .instr (.fblg false (-3)) ∧
    decode 0x25BFFFFD = .instr (.fblg true (-3)) := by decide
theorem test_decode_fbne :
    decode 0x03BFFFFD = .instr (.fbne false (-3)) ∧
    decode 0x23BFFFFD = .instr (.fbne true (-3)) := by decide
theorem test_decode_fbe :
    decode 0x13BFFFFD = .instr (.fbe false (-3)) ∧
    decode 0x33BFFFFD = .instr (.fbe true (-3)) := by decide
theorem test_decode_fbue :
    decode 0x15BFFFFD = .instr (.fbue false (-3)) ∧
    decode 0x35BFFFFD = .instr (.fbue true (-3)) := by decide
theorem test_decode_fbge :
    decode 0x17BFFFFD = .instr (.fbge false (-3)) ∧
    decode 0x37BFFFFD = .instr (.fbge true (-3)) := by decide
theorem test_decode_fbuge :
    decode 0x19BFFFFD = .instr (.fbuge false (-3)) ∧
    decode 0x39BFFFFD = .instr (.fbuge true (-3)) := by decide
theorem test_decode_fble :
    decode 0x1BBFFFFD = .instr (.fble false (-3)) ∧
    decode 0x3BBFFFFD = .instr (.fble true (-3)) := by decide
theorem test_decode_fbule :
    decode 0x1DBFFFFD = .instr (.fbule false (-3)) ∧
    decode 0x3DBFFFFD = .instr (.fbule true (-3)) := by decide
theorem test_decode_fbo :
    decode 0x1FBFFFFD = .instr (.fbo false (-3)) ∧
    decode 0x3FBFFFFD = .instr (.fbo true (-3)) := by decide

theorem test_decode_rejects :
    decode 0x00000000 = .illegal ∧ decode 0x00400000 = .illegal ∧ decode 0x944A0009 = .illegal ∧ decode 0xD4420000 = .illegal ∧
    decode 0x89A00002 = .unimplementedFPop ∧ decode 0x01C00000 = .outOfSubset "CBccc" ∧
    decode 0x91D02000 = .outOfSubset "Ticc" ∧ decode 0xC1020000 = .outOfSubset "LDF" ∧
    decode 0x89A00822 = .outOfSubset "FADDs" ∧ decode 0x94020029 = .reservedFieldNonzero ∧
    decode 0x952A2024 = .reservedFieldNonzero ∧ decode 0x89A08042 = .reservedFieldNonzero ∧
    decode 0x83A80A42 = .reservedFieldNonzero := by decide

/-! ## Single steps (vectors of 95_test_vectors.md sections 3 to 11) -/

/-- The launch state with N = 1, Z = 0, V = 1, C = 1 and three registers of window 0 set. -/
def small (o0 o1 o2 : Word) : State :=
  { ((State.reset.setReg 8 o0).setReg 9 o1).setReg 10 o2 with icc := ⟨true, false, true, true⟩ }

/-- The small state with Y. -/
def smallY (o0 o1 y : Word) : State := { small o0 o1 0 with y := y }

/-- The launch state with D[0] and D[2] set. -/
def smallD (d0 d2 : Dword) : State := (State.reset.setDreg 0 d0).setDreg 2 d2

/-- The launch state with the bytes 11 22 33 44 80 FF 00 11 from 0x2000 up, %o0 = 0x2000 and HALT_PC out of the way. -/
def smallM (o2 o3 : Word) : State :=
  { (State.reset.setReg 8 0x2000).setReg 10 o2 |>.setReg 11 o3 with
    mem := Memory.empty.writeDword 0x2000 0x1122334480FF0011 }

/-- The launch state with these condition codes, N first. -/
def smallIcc (b : BitVec 4) : State := { State.reset with icc := ⟨b.getLsbD 3, b.getLsbD 2, b.getLsbD 1, b.getLsbD 0⟩ }

/-- The word `w` placed at pc steps to a state that satisfies `p`. -/
def steps (s : State) (w : Word) (p : State → Bool) : Bool :=
  match step (placeWord s w) with
  | .next t => p t
  | _ => false

/-- The word `w` placed at pc raises this fault. -/
def faults (s : State) (w : Word) (f : Fault) : Bool :=
  match step (placeWord s w) with
  | .fault e => decide (e = f)
  | _ => false

/-- The word `w` placed at pc is refused for this reason. -/
def refuses (s : State) (w : Word) (r : Refusal) : Bool :=
  match step (placeWord s w) with
  | .refused q => decide (q = r)
  | _ => false

/-- %o2 and NZVC of a state. -/
def o2cc (v : Word) (cc : BitVec 4) (t : State) : Bool := decide (t.reg 10 = v) && decide (t.icc.toBits = cc)

/-- pc and npc of a state. -/
def pcs (pc npc : Word) (t : State) : Bool := decide (t.pc = pc) && decide (t.npc = npc)

theorem test_add_immediate_negative : steps (small 0x00000005 0x00000000 0) 0x94023FFF (o2cc 0x00000004 0b1011) = true := by decide
theorem test_add_to_g0 : steps (small 0x00000003 0x00000004 0) 0x80020009 (fun t => t.reg 0 == 0 && pcs 0x1004 0x1008 t) = true := by decide
theorem test_addcc_carry : steps (small 0xFFFFFFFF 0x00000001 0) 0x94820009 (o2cc 0x00000000 0b0101) = true := by decide
theorem test_addcc_overflow : steps (small 0x7FFFFFFF 0x00000001 0) 0x94820009 (o2cc 0x80000000 0b1010) = true := by decide
theorem test_sub_immediate_lowest : steps (small 0x00000000 0x00000000 0) 0x94223000 (o2cc 0x00001000 0b1011) = true := by decide
theorem test_subcc_borrow : steps (small 0x00000000 0x00000001 0) 0x94A20009 (o2cc 0xFFFFFFFF 0b1001) = true := by decide
theorem test_subcc_overflow : steps (small 0x80000000 0x00000001 0) 0x94A20009 (o2cc 0x7FFFFFFF 0b0010) = true := by decide
theorem test_umulcc_high_word : steps (smallY 0xFFFFFFFF 0xFFFFFFFF 0x12345678) 0x94D20009 (fun t => o2cc 0x00000001 0b0000 t && t.y == 0xFFFFFFFE) = true := by decide
theorem test_smulcc_high_word : steps (smallY 0x80000000 0x00000002 0x12345678) 0x94DA0009 (fun t => o2cc 0x00000000 0b0100 t && t.y == 0xFFFFFFFF) = true := by decide
theorem test_smul_negative : steps (smallY 0x00000007 0x00000000 0x00000001) 0x945A3FFD (fun t => o2cc 0xFFFFFFEB 0b1011 t && t.y == 0xFFFFFFFF) = true := by decide
theorem test_umul_keeps_flags : steps (smallY 0x00010000 0x00010000 0x00000000) 0x94520009 (fun t => o2cc 0x00000000 0b1011 t && t.y == 0x00000001) = true := by decide
theorem test_udiv_immediate_is_sign_extended : steps (smallY 0xFFFFFFFE 0x00000000 0x00000000) 0x94723FFF (fun t => o2cc 0x00000000 0b1011 t && t.y == 0x00000000) = true := by decide
theorem test_udivcc_clamps : steps (smallY 0x00000000 0x00000001 0x00000001) 0x94F20009 (fun t => o2cc 0xFFFFFFFF 0b1010 t && t.y == 0x00000001) = true := by decide
theorem test_udivcc_by_zero : faults (smallY 0x00000005 0x00000000 0x00000000) 0x94F20009 (.divisionByZero 0x1000 0x1004) = true := by decide
theorem test_sdivcc_truncates : steps (smallY 0xFFFFFF9C 0x00000007 0xFFFFFFFF) 0x94FA0009 (fun t => o2cc 0xFFFFFFF2 0b1000 t && t.y == 0xFFFFFFFF) = true := by decide
theorem test_sdivcc_clamps_low : steps (smallY 0x7FFFFFFF 0x00000001 0xFFFFFFFF) 0x94FA0009 (fun t => o2cc 0x80000000 0b1010 t && t.y == 0xFFFFFFFF) = true := by decide
theorem test_sdiv_clamps_high : steps (smallY 0x80000000 0xFFFFFFFF 0xFFFFFFFF) 0x947A0009 (fun t => o2cc 0x7FFFFFFF 0b1011 t && t.y == 0xFFFFFFFF) = true := by decide
theorem test_andcc : steps (small 0xF0F0A5A5 0x0FF0FFFF 0) 0x948A0009 (o2cc 0x00F0A5A5 0b0000) = true := by decide
theorem test_andncc : steps (small 0xF0F0A5A5 0x0FF0FFFF 0) 0x94AA0009 (o2cc 0xF0000000 0b1000) = true := by decide
theorem test_orcc : steps (small 0xF0F0A5A5 0x0FF0FFFF 0) 0x94920009 (o2cc 0xFFF0FFFF 0b1000) = true := by decide
theorem test_orncc : steps (small 0xF0F0A5A5 0x0FF0FFFF 0) 0x94B20009 (o2cc 0xF0FFA5A5 0b1000) = true := by decide
theorem test_xorcc : steps (small 0xF0F0A5A5 0x0FF0FFFF 0) 0x949A0009 (o2cc 0xFF005A5A 0b1000) = true := by decide
theorem test_xnorcc : steps (small 0xF0F0A5A5 0x0FF0FFFF 0) 0x94BA0009 (o2cc 0x00FFA5A5 0b0000) = true := by decide
theorem test_and_keeps_flags : steps (small 0xDEADBEEF 0x00000000 0) 0x940A2FFF (o2cc 0x00000EEF 0b1011) = true := by decide
theorem test_andn_keeps_flags : steps (small 0xDEADBEEF 0x00000000 0) 0x942A3000 (o2cc 0x00000EEF 0b1011) = true := by decide
theorem test_or_keeps_flags : steps (small 0x00000000 0x00000000 0) 0x94103FFF (o2cc 0xFFFFFFFF 0b1011) = true := by decide
theorem test_orn_keeps_flags : steps (small 0xF0F0A5A5 0x0FF0FFFF 0) 0x94320009 (o2cc 0xF0FFA5A5 0b1011) = true := by decide
theorem test_xor_keeps_flags : steps (small 0xF0F0A5A5 0x0FF0FFFF 0) 0x941A0009 (o2cc 0xFF005A5A 0b1011) = true := by decide
theorem test_xnor_keeps_flags : steps (small 0x12345678 0x00000000 0) 0x943A0000 (o2cc 0xEDCBA987 0b1011) = true := by decide
theorem test_sll_count_33 : steps (small 0x80000001 0x00000021 0) 0x952A0009 (o2cc 0x00000002 0b1011) = true := by decide
theorem test_srl_count_32 : steps (small 0x80000001 0x00000020 0) 0x95320009 (o2cc 0x80000001 0b1011) = true := by decide
theorem test_sra_count_31 : steps (small 0x80000001 0x0000001F 0) 0x953A0009 (o2cc 0xFFFFFFFF 0b1011) = true := by decide
theorem test_sethi : steps (small 0x00000000 0x00000000 0) 0x15048D15 (o2cc 0x12345400 0b1011) = true := by decide
theorem test_nop : steps (small 0x00000001 0x00000002 0) 0x01000000 (fun t => o2cc 0 0b1011 t && pcs 0x1004 0x1008 t) = true := by decide
theorem test_save : steps (State.reset.setReg 8 0x55) 0x9DE3BFA0 (fun t => t.cwp == 7 && t.reg 14 == 0x7FFFFEA0 && t.reg 30 == 0x7FFFFF00 && t.reg 24 == 0x55) = true := by decide
theorem test_restore : steps (({ State.reset with cwp := 7 } : State).setReg 17 0x99) 0x91EC6000 (fun t => t.cwp == 0 && t.reg 8 == 0x99 && t.reg 14 == 0x7FFFFF00) = true := by decide
theorem test_save_overflow : faults ({ State.reset with cwp := 2 }) 0x81E00000 (.windowOverflow 0x1000 0x1004) = true := by decide
theorem test_restore_underflow : faults (State.reset) 0x81E80000 (.windowUnderflow 0x1000 0x1004) = true := by decide
theorem test_call_backward : steps (State.reset) 0x7FFFFFFF (fun t => t.reg 15 == 0x1000 && pcs 0x1004 0x0FFC t) = true := by decide
theorem test_call_wraps : steps ({ State.reset with pc := 0x80000000, npc := 0x80000004 }) 0x60000000 (fun t => t.reg 15 == 0x80000000 && pcs 0x80000004 0 t) = true := by decide
theorem test_jmpl_reads_before_it_writes : steps (small 0x00004000 0xFFFFFFFC 0) 0x91C20009 (fun t => t.reg 8 == 0x1000 && pcs 0x1004 0x3FFC t) = true := by decide
theorem test_jmpl_misaligned : faults (small 0x00002000 0x00000000 0) 0x9FC22002 (.memAddressNotAligned 0x1000 0x1004 0x2002) = true := by decide

/-- A branch taken for exactly the values of NZVC whose bits are set in the mask (the truth table of section 9, one column). -/
def takenFor (i : Instr) (mask : BitVec 16) : Bool :=
  (List.range 16).all fun n =>
    match exec i (smallIcc (BitVec.ofNat 4 n)) with
    | .next t => pcs 0x1004 (if mask.getLsbD n then 0x1010 else 0x1008) t
    | _ => false

theorem test_integer_branch_columns :
    takenFor (.bn false 4) 0x0000 = true ∧
    takenFor (.be false 4) 0xF0F0 = true ∧
    takenFor (.ble false 4) 0xF3FC = true ∧
    takenFor (.bl false 4) 0x33CC = true ∧
    takenFor (.bleu false 4) 0xFAFA = true ∧
    takenFor (.bcs false 4) 0xAAAA = true ∧
    takenFor (.bneg false 4) 0xFF00 = true ∧
    takenFor (.bvs false 4) 0xCCCC = true ∧
    takenFor (.ba false 4) 0xFFFF = true ∧
    takenFor (.bne false 4) 0x0F0F = true ∧
    takenFor (.bg false 4) 0x0C03 = true ∧
    takenFor (.bge false 4) 0xCC33 = true ∧
    takenFor (.bgu false 4) 0x0505 = true ∧
    takenFor (.bcc false 4) 0x5555 = true ∧
    takenFor (.bpos false 4) 0x00FF = true ∧
    takenFor (.bvc false 4) 0x3333 = true := by decide

theorem test_ba_annuls : steps (smallIcc 0) 0x30800004 (pcs 0x1010 0x1014) = true := by decide
theorem test_bn_annuls : steps (smallIcc 0) 0x20800004 (pcs 0x1008 0x100C) = true := by decide
theorem test_be_annul_taken : steps (smallIcc 0b0100) 0x22800004 (fun t => pcs 0x1004 0x1010 t && t.inCondDelay) = true := by decide
theorem test_be_annul_untaken : steps (smallIcc 0) 0x22800004 (fun t => pcs 0x1008 0x100C t && !t.inCondDelay) = true := by decide
theorem test_ba_lowest_displacement : steps ({ State.reset with pc := 0x800000, npc := 0x800004 }) 0x10A00000 (pcs 0x800004 0) = true := by decide
theorem test_bne_uses_the_npc_it_finds : steps ({ smallIcc 0 with npc := 0x2000 }) 0x12800004 (pcs 0x2000 0x1010) = true := by decide
theorem test_branch_couple : refuses ({ State.reset with inCondDelay := true }) 0x10800004 .dctiCouple = true := by decide
theorem test_ldsb : steps (smallM 0 0) 0xD44A2004 (fun t => t.reg 10 == 0xFFFFFF80) = true := by decide
theorem test_ldub : steps (smallM 0 0) 0xD40A2005 (fun t => t.reg 10 == 0xFF) = true := by decide
theorem test_ldsh : steps (smallM 0 0) 0xD4522004 (fun t => t.reg 10 == 0xFFFF80FF) = true := by decide
theorem test_lduh : steps (smallM 0 0) 0xD4122004 (fun t => t.reg 10 == 0x80FF) = true := by decide
theorem test_ld : steps (smallM 0 0) 0xD4022004 (fun t => t.reg 10 == 0x80FF0011) = true := by decide
theorem test_ldd : steps (smallM 0 0) 0xD41A2000 (fun t => t.reg 10 == 0x11223344 && t.reg 11 == 0x80FF0011) = true := by decide
theorem test_ldd_g0 : steps (smallM 0 0) 0xC01A2000 (fun t => t.reg 0 == 0 && t.reg 1 == 0x80FF0011) = true := by decide
theorem test_stb : steps (smallM 0x01020304 0xA1B2C3D4) 0xD42A200B (fun t => t.mem.readDword 0x2008 == 0x0000000400000000) = true := by decide
theorem test_sth : steps (smallM 0x01020304 0xA1B2C3D4) 0xD432200A (fun t => t.mem.readDword 0x2008 == 0x0000030400000000) = true := by decide
theorem test_st : steps (smallM 0x01020304 0xA1B2C3D4) 0xD422200C (fun t => t.mem.readDword 0x2008 == 0x0000000001020304) = true := by decide
theorem test_std : steps (smallM 0x01020304 0xA1B2C3D4) 0xD43A2008 (fun t => t.mem.readDword 0x2008 == 0x01020304A1B2C3D4) = true := by decide
theorem test_st_g0 : steps (smallM 0x01020304 0xA1B2C3D4) 0xC0222000 (fun t => t.mem.readDword 0x2000 == 0x0000000080FF0011) = true := by decide
theorem test_ld_misaligned : faults (smallM 0 0) 0xD4022002 (.memAddressNotAligned 0x1000 0x1004 0x2002) = true := by decide
theorem test_ldd_odd_register : faults (smallM 0 0) 0xD61A2000 (.illegalInstruction 0x1000 0x1004 0xD61A2000) = true := by decide
theorem test_std_odd_register : faults (smallM 0 0) 0xD63A2000 (.illegalInstruction 0x1000 0x1004 0xD63A2000) = true := by decide
theorem test_st_address_wraps : steps (small 0xFFFFFFFC 8 0xCAFEBABE) 0xD4220009 (fun t => t.mem.readWord 4 == 0xCAFEBABE) = true := by decide
theorem test_faddd_rounds : steps (smallD 0x3FB999999999999A 0x3FC999999999999A) 0x89A00842 (fun t => t.dreg 4 == 0x3FD3333333333334 && t.cexc == ⟨false, false, false, false, true⟩) = true := by decide +kernel
theorem test_faddd_inf_minus_inf : steps (smallD 0x7FF0000000000000 0xFFF0000000000000) 0x89A00842 (fun t => t.cexc == ⟨true, false, false, false, false⟩) = true := by decide +kernel
theorem test_fsubd : steps (smallD 0x4016000000000000 0x401D000000000000) 0x89A008C2 (fun t => t.dreg 4 == 0xBFFC000000000000) = true := by decide +kernel
theorem test_fsubd_equal_is_plus_zero : steps (smallD 0x3FF0000000000000 0x3FF0000000000000) 0x89A008C2 (fun t => t.dreg 4 == 0x0000000000000000) = true := by decide +kernel
theorem test_fmuld : steps (smallD 0xC008000000000000 0x3FE0000000000000) 0x89A00942 (fun t => t.dreg 4 == 0xBFF8000000000000) = true := by decide +kernel
theorem test_fmuld_overflows : steps (smallD 0x6974E718D7D7625A 0x6974E718D7D7625A) 0x89A00942 (fun t => t.dreg 4 == 0x7FF0000000000000 && t.cexc == ⟨false, true, false, false, true⟩) = true := by decide +kernel
theorem test_fdivd_rounds : steps (smallD 0x3FF0000000000000 0x4008000000000000) 0x89A009C2 (fun t => t.dreg 4 == 0x3FD5555555555555) = true := by decide +kernel
theorem test_fdivd_by_zero : steps (smallD 0xBFF0000000000000 0x0000000000000000) 0x89A009C2 (fun t => t.dreg 4 == 0xFFF0000000000000 && t.cexc == ⟨false, false, false, true, false⟩) = true := by decide +kernel
theorem test_fmovd_keeps_signalling_nan : steps (smallD 0x0000000000000000 0x7FF0000000000001) 0x89A00042 (fun t => t.dreg 4 == 0x7FF0000000000001) = true := by decide
theorem test_fnegd_of_zero : steps (smallD 0x0000000000000000 0x0000000000000000) 0x89A000C2 (fun t => t.dreg 4 == 0x8000000000000000) = true := by decide
theorem test_fabsd : steps (smallD 0x0000000000000000 0xC008000000000000) 0x89A00142 (fun t => t.dreg 4 == 0x4008000000000000) = true := by decide
theorem test_fitod_lowest : steps (State.reset.setFreg 1 0x80000000) 0x89A01901 (fun t => t.dreg 4 == 0xC1E0000000000000) = true := by decide +kernel
theorem test_fitod_highest : steps (State.reset.setFreg 1 0x7FFFFFFF) 0x89A01901 (fun t => t.dreg 4 == 0x41DFFFFFFFC00000) = true := by decide +kernel
theorem test_fdtoi_truncates : steps (smallD 0x0000000000000000 0xC007EB851EB851EC) 0x8BA01A42 (fun t => t.freg 5 == 0xFFFFFFFE) = true := by decide +kernel
theorem test_fdtoi_highest : steps (smallD 0x0000000000000000 0x41DFFFFFFFE00000) 0x8BA01A42 (fun t => t.freg 5 == 0x7FFFFFFF) = true := by decide +kernel
theorem test_fcmpd_signed_zeros : steps (smallD 0x0000000000000000 0x8000000000000000) 0x81A80A42 (fun t => t.fcc == .equal && t.afterFcmp) = true := by decide +kernel
theorem test_fcmpd_nan : steps (smallD 0x7FF8000000000000 0x3FF0000000000000) 0x81A80A42 (fun t => t.fcc == .unordered && t.cexc == .none) = true := by decide +kernel
theorem test_faddd_odd_register : faults (State.reset) 0x89A04842 (.fpException 0x1000 0x1004 .invalidFpRegister) = true := by decide
theorem test_lddf_register_check_first : faults (smallM 0 0) 0xC71A2004 (.fpException 0x1000 0x1004 .invalidFpRegister) = true := by decide
theorem test_lddf : steps (smallM 0 0) 0xC51A2000 (fun t => t.freg 2 == 0x11223344 && t.freg 3 == 0x80FF0011) = true := by decide
theorem test_stdf : steps ((smallM 0 0).setDreg 2 0x400921FB54442D18) 0xC53A2008 (fun t => t.mem.readDword 0x2008 == 0x400921FB54442D18) = true := by decide

/-- A floating branch taken for exactly the values of fcc whose bits are set in the mask (section 10, one column). -/
def floatTakenFor (i : Instr) (mask : BitVec 4) : Bool :=
  [Fcc.equal, .less, .greater, .unordered].all fun c =>
    match exec i { State.reset with fcc := c } with
    | .next t => pcs 0x1004 (if mask.getLsbD c.toBits.toNat then 0x1010 else 0x1008) t
    | _ => false

theorem test_float_branch_columns :
    floatTakenFor (.fbn false 4) 0x0 = true ∧
    floatTakenFor (.fbne false 4) 0xE = true ∧
    floatTakenFor (.fblg false 4) 0x6 = true ∧
    floatTakenFor (.fbul false 4) 0xA = true ∧
    floatTakenFor (.fbl false 4) 0x2 = true ∧
    floatTakenFor (.fbug false 4) 0xC = true ∧
    floatTakenFor (.fbg false 4) 0x4 = true ∧
    floatTakenFor (.fbu false 4) 0x8 = true ∧
    floatTakenFor (.fba false 4) 0xF = true ∧
    floatTakenFor (.fbe false 4) 0x1 = true ∧
    floatTakenFor (.fbue false 4) 0x9 = true ∧
    floatTakenFor (.fbge false 4) 0x5 = true ∧
    floatTakenFor (.fbuge false 4) 0xD = true ∧
    floatTakenFor (.fble false 4) 0x3 = true ∧
    floatTakenFor (.fbule false 4) 0xB = true ∧
    floatTakenFor (.fbo false 4) 0x7 = true := by decide
theorem test_fbe_after_fcmpd : refuses ({ State.reset with afterFcmp := true }) 0x13800004 .fbfccAfterFcmp = true := by decide
theorem test_fba_annuls : steps (State.reset) 0x31800002 (pcs 0x1008 0x100C) = true := by decide

/-! ## Witnesses: for each obligation with hypotheses, a state and operands that meet them, at the boundaries of its clauses -/

/-- The four bytes of a word, joined again. -/
theorem wordOfBytes_bytes (w : Word) :
    wordOfBytes (w.extractLsb' 24 8) (w.extractLsb' 16 8) (w.extractLsb' 8 8) (w.extractLsb' 0 8) = w := by
  refine BitVec.eq_of_getLsbD_eq fun i hi => ?_
  simp only [wordOfBytes, BitVec.getLsbD_append, BitVec.getLsbD_extractLsb']
  repeat' split
  all_goals simp only [Nat.reduceAdd] at *
  all_goals
    first
    | (rw [show 0 + i = i by omega]; simp; omega)
    | (rw [show 8 + (i - 8) = i by omega]; simp; omega)
    | (rw [show 16 + (i - 16) = i by omega]; simp; omega)
    | (rw [show 24 + (i - 16 - 8) = i by omega]; simp; omega)

/-- The launch state with the word at pc. -/
def loaded (w : Word) : State := placeWord State.reset w

/-- The next step of that state fetches the word. -/
theorem loaded_fetches (w : Word) : (loaded w).fetches w where
  running := (by decide : (0x1000 : Word) ≠ 0x2000)
  aligned := (by decide : (0x1000 : Word).toNat % 4 = 0)
  mapped := (by decide : ∀ k < 4, State.reset.mapped (0x1000 + BitVec.ofNat 32 k) = true)
  word := by
    have h : (loaded w).mem = Memory.empty.writeWord 0x1000 w := rfl
    have hp : (loaded w).pc = 0x1000 := rfl
    rw [h, hp]
    simp only [Memory.readByte_writeWord Memory.wf_empty]
    exact (wordOfBytes_bytes w).symm

/-- A result that is a next state. -/
def isNext (r : Result) : Bool :=
  match r with
  | .next _ => true
  | _ => false

theorem exists_of_isNext {r : Result} (h : isNext r = true) : ∃ t, r = .next t := by
  cases r with
  | next t => exact ⟨t, rfl⟩
  | fault f => exact absurd h (by simp [isNext])
  | refused q => exact absurd h (by simp [isNext])

/-- The state after a result, where there is one. -/
def after (r : Result) (s : State) : State :=
  match r with
  | .next t => t
  | _ => s

/-- Two instructions that both complete, one after the other. -/
theorem exists_two {i j : Instr} {s : State} (h : isNext (exec i s) = true) (h' : isNext (exec j (after (exec i s) s)) = true) :
    ∃ t u, exec i s = .next t ∧ exec j t = .next u := by
  obtain ⟨t, ht⟩ := exists_of_isNext h
  rw [ht] at h'
  obtain ⟨u, hu⟩ := exists_of_isNext h'
  exact ⟨t, u, ht, hu⟩

theorem both {α : Type} {p : α → Prop} {a b : α} (ha : p a) (hb : p b) : ∀ x ∈ [a, b], p x := by
  intro x hx
  rcases List.mem_pair.mp hx with rfl | rfl
  · exact ha
  · exact hb

/-- The launch state where only these addresses are Mapped and these are Text. -/
def withRegions (mapped text : List Region) (s : State) : State :=
  { s with params := { s.params with mapped := mapped, text := text } }

theorem reset_fpu : State.reset.standardFpu := ⟨by decide, by decide, by decide, by decide⟩

theorem loaded_next {w : Word} (h : steps State.reset w (fun _ => true) = true) : ∃ t, step (loaded w) = .next t :=
  exists_of_isNext (by
    unfold steps at h; unfold loaded isNext
    split at h <;> simp_all)

theorem loaded_inv (w : Word) (h : (loaded w).mem.wf) : (loaded w).Inv where
  memory := h
  pc_aligned := (by decide : (0x1000 : Word).toNat % 4 = 0)
  npc_aligned := (by decide : (0x1004 : Word).toNat % 4 = 0)
  cwp_lt := (by decide : (0 : BitVec 5).toNat < 8)
  wim_high := fun i hi => by
    by_cases h32 : i < 32
    · exact (by decide : ∀ j < 32, 8 ≤ j → (2#32).getLsbD j = false) i h32 hi
    · exact BitVec.getLsbD_of_ge _ _ (by omega)
  fq_empty := rfl

theorem test_witness_DecodeOfEncode : (Instr.sethi 0 31).WellFormed ∧ (Instr.add 31 (.imm (-4096)) 31).WellFormed := by decide

theorem test_witness_EncodeOfDecode : decode 0x94023FFF = .instr (.add 8 (.imm (-1)) 10) := by decide

theorem test_witness_IllegalWordsFault_op2 :
    ∀ w ∈ ([0x00000000, 0x01400000] : List Word), (loaded w).fetches w ∧
      fieldOp w = 0 ∧ fieldOp2 w ∈ ([0, 1, 3, 5] : List (BitVec 3)) :=
  both ⟨loaded_fetches _, by decide⟩ ⟨loaded_fetches _, by decide⟩

theorem test_witness_IllegalWordsFault_op3 :
    ∀ w ∈ ([0x80480000, 0x81F80000] : List Word), (loaded w).fetches w ∧ fieldOp w = 2 ∧
      fieldOp3 w ∈ ([0x09, 0x0D, 0x19, 0x1D, 0x2C, 0x2D, 0x2E, 0x2F, 0x3E, 0x3F] : List (BitVec 6)) :=
  both ⟨loaded_fetches _, by decide⟩ ⟨loaded_fetches _, by decide⟩

theorem test_witness_IllegalWordsFault_memory :
    ∀ w ∈ ([0xC0400000, 0xC1F80000] : List Word), (loaded w).fetches w ∧ fieldOp w = 3 ∧
      fieldOp3 w ∈ ([0x08, 0x0B, 0x0C, 0x0E, 0x18, 0x1B, 0x1C, 0x1E, 0x22, 0x28, 0x29, 0x2A, 0x2B, 0x2C, 0x2D, 0x2E, 0x2F, 0x32,
        0x38, 0x39, 0x3A, 0x3B, 0x3C, 0x3D, 0x3E, 0x3F] : List (BitVec 6)) :=
  both ⟨loaded_fetches _, by decide⟩ ⟨loaded_fetches _, by decide⟩

theorem test_witness_IllegalWordsFault_opf :
    ∀ w ∈ ([0x81A00000, 0x81A03FE0] : List Word), (loaded w).fetches w ∧ (loaded w).psr.ef = true ∧ fieldOp w = 2 ∧
      fieldOp3 w = 0x34 ∧ fieldOpf w ∈ ([0x000, 0x1FF] : List (BitVec 9)) :=
  both ⟨loaded_fetches _, by decide⟩ ⟨loaded_fetches _, by decide⟩

theorem test_witness_IllegalWordsFault_compare :
    ∀ w ∈ ([0x81A80000, 0x81A83FE0] : List Word), (loaded w).fetches w ∧ (loaded w).psr.ef = true ∧ fieldOp w = 2 ∧
      fieldOp3 w = 0x35 ∧ fieldOpf w ∉ ([0x052, 0x051, 0x053, 0x055, 0x056, 0x057] : List (BitVec 9)) :=
  both ⟨loaded_fetches _, by decide⟩ ⟨loaded_fetches _, by decide⟩

theorem test_witness_OutOfSubsetRefused_coprocessorBranch :
    ∀ w ∈ ([0x01C00000, 0x3FFFFFFF] : List Word), (loaded w).fetches w ∧ fieldOp w = 0 ∧ fieldOp2 w = 7 :=
  both ⟨loaded_fetches _, by decide⟩ ⟨loaded_fetches _, by decide⟩

theorem test_witness_OutOfSubsetRefused_op3 :
    ∀ w ∈ ([0x94420009, 0x81D80000] : List Word), (loaded w).fetches w ∧ fieldOp w = 2 ∧
      fieldOp3 w ∈ ([0x08, 0x3B] : List (BitVec 6)) :=
  both ⟨loaded_fetches _, by decide⟩ ⟨loaded_fetches _, by decide⟩

theorem test_witness_OutOfSubsetRefused_memory :
    ∀ w ∈ ([0xD46A0000, 0xC1B80000] : List Word), (loaded w).fetches w ∧ fieldOp w = 3 ∧
      fieldOp3 w ∈ ([0x0D, 0x37] : List (BitVec 6)) :=
  both ⟨loaded_fetches _, by decide⟩ ⟨loaded_fetches _, by decide⟩

theorem test_witness_OutOfSubsetRefused_opf :
    ∀ w ∈ ([0x89A00022, 0x89A01A62] : List Word), (loaded w).fetches w ∧ fieldOp w = 2 ∧ fieldOp3 w = 0x34 ∧
      fieldOpf w ∈ ([0x001, 0x0D3] : List (BitVec 9)) :=
  both ⟨loaded_fetches _, by decide⟩ ⟨loaded_fetches _, by decide⟩

theorem test_witness_OutOfSubsetRefused_compare :
    ∀ w ∈ ([0x81A80A22, 0x81A80AE2] : List Word), (loaded w).fetches w ∧ fieldOp w = 2 ∧ fieldOp3 w = 0x35 ∧
      fieldOpf w ∈ ([0x051, 0x057] : List (BitVec 9)) :=
  both ⟨loaded_fetches _, by decide⟩ ⟨loaded_fetches _, by decide⟩

theorem test_witness_ReservedFieldsRefused_register :
    ∀ w ∈ ([0x80001FE0, 0x81E80020] : List Word), (loaded w).fetches w ∧ fieldOp w = 2 ∧
      fieldOp3 w ∈ ([0x00, 0x3D] : List (BitVec 6)) ∧ fieldI w = false ∧ fieldReserved w ≠ 0 :=
  both ⟨loaded_fetches _, by decide⟩ ⟨loaded_fetches _, by decide⟩

theorem test_witness_ReservedFieldsRefused_memory :
    ∀ w ∈ ([0xC0000020, 0xC1381000] : List Word), (loaded w).fetches w ∧ fieldOp w = 3 ∧
      fieldOp3 w ∈ ([0x00, 0x27] : List (BitVec 6)) ∧ fieldI w = false ∧ fieldReserved w ≠ 0 :=
  both ⟨loaded_fetches _, by decide⟩ ⟨loaded_fetches _, by decide⟩

theorem test_witness_ReservedFieldsRefused_shift :
    ∀ w ∈ ([0x952A2024, 0x953A3004] : List Word), (loaded w).fetches w ∧ fieldOp w = 2 ∧
      fieldOp3 w ∈ ([0x25, 0x27] : List (BitVec 6)) ∧ fieldI w = true ∧ fieldReserved w ≠ 0 :=
  both ⟨loaded_fetches _, by decide⟩ ⟨loaded_fetches _, by decide⟩

theorem test_witness_ReservedFieldsRefused_float :
    ∀ w ∈ ([0x89A08042, 0x89A7DA42] : List Word), (loaded w).fetches w ∧ fieldOp w = 2 ∧ fieldOp3 w = 0x34 ∧
      fieldOpf w ∈ ([0x002, 0x0D2] : List (BitVec 9)) ∧ fieldRs1 w ≠ 0 :=
  both ⟨loaded_fetches _, by decide⟩ ⟨loaded_fetches _, by decide⟩

theorem test_witness_ReservedFieldsRefused_compare :
    ∀ w ∈ ([0x83A80A42, 0xBFA80A42] : List Word), (loaded w).fetches w ∧ fieldOp w = 2 ∧ fieldOp3 w = 0x35 ∧
      fieldOpf w = 0x052 ∧ fieldRd w ≠ 0 :=
  both ⟨loaded_fetches _, by decide⟩ ⟨loaded_fetches _, by decide⟩

theorem test_witness_StepRunsInstruction :
    (loaded 0x94023FFF).fetches 0x94023FFF ∧ decode 0x94023FFF = .instr (.add 8 (.imm (-1)) 10) :=
  ⟨loaded_fetches _, by decide⟩

theorem test_witness_UnmappedFetchFaults :
    ∀ rs ∈ ([[], [⟨0, 0x1003⟩], [⟨0x1001, 0x1000⟩]] : List (List Region)),
      (withRegions rs [] State.reset).pc.toNat % 4 = 0 ∧ (withRegions rs [] State.reset).pc ≠ (withRegions rs [] State.reset).params.haltPc ∧
        ∃ k < 4, (withRegions rs [] State.reset).mapped ((withRegions rs [] State.reset).pc + BitVec.ofNat 32 k) = false := by decide

theorem test_witness_UnmappedFetchFaults_ended :
    ({ withRegions [] [] State.reset with pc := 0x2000 } : State).pc.toNat % 4 = 0 ∧
      ({ withRegions [] [] State.reset with pc := 0x2000 } : State).mapped 0x2000 = false ∧
        ({ withRegions [] [] State.reset with pc := 0x2000 } : State).pc = State.reset.params.haltPc := by decide

theorem test_witness_EndedRunHasNoStep : ({ State.reset with pc := 0x2000 } : State).ended := rfl

theorem test_witness_FaultsArePrecise : faults State.reset 0x00000000 (.illegalInstruction 0x1000 0x1004 0) = true := by decide

theorem test_witness_StepKeepsInvariant : (loaded 0x01000000).Inv ∧ ∃ t, step (loaded 0x01000000) = .next t :=
  ⟨loaded_inv _ (by decide), loaded_next (by decide)⟩

theorem test_witness_LaunchHasInvariant :
    ∀ p ∈ ([(⟨32, by decide⟩, 31, 0x80000000), (⟨2, by decide⟩, 1, 1)] : List (WindowCount × BitVec 5 × Word)),
      p.2.1.toNat < p.1.val ∧ Launch.default.entryPc.toNat % 4 = 0 ∧ ∀ i < 32, p.1.val ≤ i → p.2.2.getLsbD i = false := by decide

theorem test_witness_StepKeepsConstants : ∃ t, step (loaded 0x9DE3BFA0) = .next t := loaded_next (by decide)

theorem test_witness_FrameOfEveryInstruction :
    (∃ t, exec (.umulcc 8 (.reg 9) 10) State.reset = .next t) ∧ (∃ t, exec (.std 8 (.imm 0) 30) State.reset = .next t) ∧
      ∃ t, exec (.fcmpd 30 0) State.reset = .next t :=
  ⟨exists_of_isNext (by decide), exists_of_isNext (by decide), exists_of_isNext (by decide +kernel)⟩

theorem test_witness_SpecialRegisterWriters :
    (∃ t, exec .nop State.reset = .next t) ∧
      (Instr.nop matches .addcc .. | .subcc .. | .umulcc .. | .smulcc .. | .udivcc .. | .sdivcc .. | .andcc .. | .andncc .. | .orcc ..
        | .orncc .. | .xorcc .. | .xnorcc ..) = false ∧ (Instr.nop matches .umul .. | .umulcc .. | .smul .. | .smulcc ..) = false ∧
      (Instr.nop matches .save .. | .restore ..) = false ∧ (Instr.nop matches .fcmpd ..) = false :=
  ⟨exists_of_isNext (by decide), by decide, by decide, by decide, by decide⟩

theorem test_witness_AdvanceOfNonTransfers : isTransfer (.fcmpd 0 2) = false ∧ ∃ t, exec (.fcmpd 0 2) State.reset = .next t :=
  ⟨by decide, exists_of_isNext (by decide +kernel)⟩

theorem test_witness_DctiCouples :
    (isTransfer (.jmpl 0 (.imm 0) 0) = true ∧ ({ State.reset with inCondDelay := true } : State).inCondDelay = true) ∧
      State.reset.inCondDelay = false ∧ (∃ t, exec (.bn true 4) State.reset = .next t) ∧ ∃ t, exec (.bn false 4) State.reset = .next t :=
  ⟨by decide, by decide, exists_of_isNext (by decide), exists_of_isNext (by decide)⟩

theorem test_witness_FloatBranchAfterFcmpd :
    (({ State.reset with afterFcmp := true } : State).inCondDelay = false ∧ ({ State.reset with afterFcmp := true } : State).afterFcmp = true) ∧
      State.reset.afterFcmp = false ∧ ∃ t, exec (.fbe false 4) State.reset = .next t :=
  ⟨by decide, by decide, exists_of_isNext (by decide)⟩

theorem test_witness_RegisterZero : (1 : Reg) ≠ 0 ∧ (31 : Reg) ≠ 0 := by decide

theorem test_witness_WindowMapping :
    (∀ n ∈ ([1, 7] : List Reg), 1 ≤ n.toNat ∧ n.toNat < 8) ∧ (∀ n ∈ ([8, 31] : List Reg), 8 ≤ n.toNat) ∧
      (∀ w ∈ ([0, 7] : List (BitVec 5)), w.toNat < State.reset.params.nwindows.val) ∧
      (∀ n ∈ ([16, 23] : List Reg), 16 ≤ n.toNat ∧ n.toNat < 24) ∧ (7 : BitVec 5) ≠ 0 := by decide

theorem test_witness_RegistersOfWindowDistinct :
    State.reset.cellIn 7 31 = State.reset.cellIn 7 31 ∧ (8 : Reg) ≠ 24 := by decide

theorem test_witness_UnsignedDivideResults :
    (∀ p ∈ ([(0xFFFFFFFF, 0, 2 ^ 32 - 1), (0, 1, 2 ^ 32)] : List (Word × Word × Nat)),
      (smallY p.1 1 p.2.1).op2 (.reg 9) ≠ 0 ∧
        p.2.2 = ((smallY p.1 1 p.2.1).y.toNat * 2 ^ 32 + ((smallY p.1 1 p.2.1).reg 8).toNat) /
          ((smallY p.1 1 p.2.1).op2 (.reg 9)).toNat) ∧
      (smallY 5 0 0).op2 (.reg 9) = 0 := by decide

theorem test_witness_SignedDivideResults :
    (∀ p ∈ ([(0x7FFFFFFF, 1, 0, 2 ^ 31 - 1), (0x80000000, 1, 0, 2 ^ 31), (0x80000000, 1, 0xFFFFFFFF, -2 ^ 31),
        (0xFFFFFFFF, 2, 0xFFFFFFFE, -2 ^ 31), (0x7FFFFFFF, 1, 0xFFFFFFFF, -2 ^ 31 - 1)] : List (Word × Word × Word × Int)),
      (smallY p.1 p.2.1 p.2.2.1).op2 (.reg 9) ≠ 0 ∧
        p.2.2.2 = ((smallY p.1 p.2.1 p.2.2.1).y.toInt * 2 ^ 32 + ((smallY p.1 p.2.1 p.2.2.1).reg 8).toNat).tdiv
          ((smallY p.1 p.2.1 p.2.2.1).op2 (.reg 9)).toInt) ∧
      (smallY 5 0 0).op2 (.reg 9) = 0 := by decide

theorem test_witness_DivisionByZeroTraps :
    (smallY 5 0 0).op2 (.imm 0) = 0 ∧ (smallY 5 0 0).op2 (.imm (-1)) ≠ 0 ∧
      faults (smallY 5 0 0) 0x94F20009 (.divisionByZero 0x1000 0x1004) = true := by decide

theorem test_witness_ShiftResults :
    (31 = ((small 0 0x3F 0).reg 9).toNat % 32) ∧ (0 = ((small 0 0x20 0).reg 9).toNat % 32) ∧ 31 = (31 : BitVec 5).toNat := by decide

theorem test_witness_SaveRestoreResults :
    (7 = BitVec.ofNat 5 ((State.reset.cwp.toNat + State.reset.params.nwindows.val - 1) % State.reset.params.nwindows.val) ∧
        State.reset.wim.getLsbD 7 = false) ∧
      (1 = BitVec.ofNat 5 (((2 : BitVec 5).toNat + 8 - 1) % 8) ∧ State.reset.wim.getLsbD 1 = true) ∧
      (0 = BitVec.ofNat 5 (((7 : BitVec 5).toNat + 1) % 8) ∧ State.reset.wim.getLsbD 0 = false) ∧
      1 = BitVec.ofNat 5 ((State.reset.cwp.toNat + 1) % State.reset.params.nwindows.val) := by decide

theorem test_witness_RestoreUndoesSave :
    State.reset.cwp.toNat < State.reset.params.nwindows.val ∧
      (∃ t u, exec (.save 14 (.imm (-96)) 14) State.reset = .next t ∧ exec (.restore 0 (.reg 0) 8) t = .next u) ∧
      ∀ n ∈ ([16, 23, 24, 31] : List Reg), 16 ≤ n.toNat ∧ (n.toNat < 24 ∨ 3 ≤ State.reset.params.nwindows.val) ∧ n ≠ 8 :=
  ⟨by decide, exists_two (by decide) (by decide), by decide⟩

theorem test_witness_CallResult :
    State.reset.inCondDelay = false ∧ ({ State.reset with inCondDelay := true } : State).inCondDelay = true := by decide

theorem test_witness_JmplResult :
    (0x4008 = (small 0x4000 0 0).reg 8 + (small 0x4000 0 0).op2 (.imm 8) ∧ (0x4008 : Word).toNat % 4 = 0 ∧
        (small 0x4000 0 0).inCondDelay = false) ∧
      0x4003 = (small 0x4000 0 0).reg 8 + (small 0x4000 0 0).op2 (.imm 3) ∧ (0x4003 : Word).toNat % 4 ≠ 0 := by decide

/-- Both tests of `be`, with and without the annul bit, and `ba,a`. -/
theorem test_witness_IntegerBranchResults :
    (∀ b ∈ ([0, 4] : List (BitVec 4)), (smallIcc b).inCondDelay = false) ∧
      (true = (smallIcc 4).icc.z ∧ false = (true && (!true || (0x1 : BitVec 4) == 0x8))) ∧
      (false = (smallIcc 0).icc.z ∧ true = (true && (!false || (0x1 : BitVec 4) == 0x8))) ∧
      true = (true && (!true || (0x8 : BitVec 4) == 0x8)) := by decide

theorem test_witness_BranchAfterSubcc : ∃ t, exec (.subcc 8 (.reg 9) 0) (small 0x80000000 1 0) = .next t :=
  exists_of_isNext (by decide)

theorem test_witness_FloatBranchResults :
    (State.reset.inCondDelay = false ∧ State.reset.afterFcmp = false ∧ State.reset.psr.ef = true ∧
        true = decide (State.reset.fcc ∈ [Fcc.equal]) ∧ false = decide (State.reset.fcc ∈ [Fcc.less])) ∧
      ({ State.reset with afterFcmp := true } : State).afterFcmp = true ∧
      ({ State.reset with psr := { State.reset.psr with ef := false } } : State).psr.ef = false := by decide

theorem test_witness_LoadResults :
    0 = State.reset.reg 0 + State.reset.op2 (.imm 0) ∧ 0xFFFFFFFC = State.reset.reg 0 + State.reset.op2 (.imm (-4)) ∧
      State.reset.loadable 0 1 ∧ State.reset.loadable 0xFFFFFFFC 2 ∧ State.reset.loadable 0xFFFFFFFC 4 :=
  ⟨by decide, by decide, ⟨by decide, by decide⟩, ⟨by decide, by decide⟩, ⟨by decide, by decide⟩⟩

theorem test_witness_LoadResults_faults :
    (3 = State.reset.reg 0 + State.reset.op2 (.imm 3) ∧ (3 : Word).toNat % 2 ≠ 0 ∧ (3 : Word).toNat % 4 ≠ 0) ∧
      (∃ k < 4, (withRegions [⟨0, 3⟩] [] State.reset).mapped (0 + BitVec.ofNat 32 k) = false) ∧
      ∃ k < 1, (withRegions [] [] State.reset).mapped (0 + BitVec.ofNat 32 k) = false := by decide

theorem test_witness_LoadDoubleResult :
    (30 : Reg).toNat % 2 = 0 ∧ (1 : Reg).toNat % 2 = 1 ∧ 0xFFFFFFF8 = State.reset.reg 0 + State.reset.op2 (.imm (-8)) ∧
      State.reset.loadable 0xFFFFFFF8 8 ∧ (0xFFFFFFFC : Word).toNat % 8 ≠ 0 ∧
      ∃ k < 8, (withRegions [⟨0, 7⟩] [] State.reset).mapped (0 + BitVec.ofNat 32 k) = false :=
  ⟨by decide, by decide, by decide, ⟨by decide, by decide⟩, by decide, by decide⟩

theorem test_witness_StoreResults :
    State.reset.mem.wf ∧ 0 = State.reset.reg 0 + State.reset.op2 (.imm 0) ∧ State.reset.storable 0 1 ∧
      State.reset.storable 0xFFFFFFFE 2 ∧ State.reset.storable 0xFFFFFFFC 4 :=
  ⟨by decide, by decide, ⟨⟨by decide, by decide⟩, by decide⟩, ⟨⟨by decide, by decide⟩, by decide⟩, ⟨⟨by decide, by decide⟩, by decide⟩⟩

theorem test_witness_StoreResults_text :
    (withRegions [⟨0, 4⟩] [⟨3, 1⟩] State.reset).loadable 0 4 ∧
      ∃ k < 4, (withRegions [⟨0, 4⟩] [⟨3, 1⟩] State.reset).isText (0 + BitVec.ofNat 32 k) = true :=
  ⟨⟨by decide, by decide⟩, by decide⟩

theorem test_witness_StoreDoubleResult :
    State.reset.mem.wf ∧ (30 : Reg).toNat % 2 = 0 ∧ (31 : Reg).toNat % 2 = 1 ∧ State.reset.storable 0xFFFFFFF8 8 ∧
      0xFFFFFFF8 = State.reset.reg 0 + State.reset.op2 (.imm (-8)) :=
  ⟨by decide, by decide, by decide, ⟨⟨by decide, by decide⟩, by decide⟩, by decide⟩

theorem test_witness_MisalignedAccessFaults :
    (1 = State.reset.reg 0 + State.reset.op2 (.imm 1) ∧ (1 : Word).toNat % 2 ≠ 0) ∧ (2 : Word).toNat % 4 ≠ 0 ∧ (4 : Word).toNat % 8 ≠ 0 ∧
      (0 : Reg).toNat % 2 = 0 ∧ State.reset.psr.ef = true ∧ State.reset.inCondDelay = false := by decide

/-- A state whose step stores: `st %o2, [%o0 + %o1]` with 0xCAFEBABE in %o2. -/
theorem test_witness_OnlyWritableBytesChange :
    (placeWord (small 0xFFFFFFFC 8 0xCAFEBABE) 0xD4220009).mem.wf ∧
      steps (small 0xFFFFFFFC 8 0xCAFEBABE) 0xD4220009 (fun t => t.mem.readByte 4 != 0) = true := by decide

theorem test_witness_LoadsReturnStores :
    State.reset.mem.wf ∧
      (∃ t u, exec (.st 0 (.imm 0) 14) State.reset = .next t ∧ exec (.ld 0 (.imm 0) 8) t = .next u) ∧
      (∃ t u, exec (.std 0 (.imm (-8)) 14) State.reset = .next t ∧ exec (.ldd 0 (.imm (-8)) 14) t = .next u) ∧
      (∃ t u, exec (.stdf 0 (.imm 0) 30) State.reset = .next t ∧ exec (.lddf 0 (.imm 0) 30) t = .next u) ∧
      ∃ t u, exec (.std 0 (.imm 0) 14) State.reset = .next t ∧ exec (.lddf 0 (.imm 0) 2) t = .next u :=
  ⟨by decide, exists_two (by decide) (by decide), exists_two (by decide) (by decide), exists_two (by decide) (by decide),
    exists_two (by decide) (by decide)⟩

theorem test_witness_FpArithmeticResults :
    State.reset.standardFpu ∧ State.reset.psr.ef = true ∧ (∀ n ∈ ([0, 30] : List FReg), n.toNat % 2 = 0) ∧
      (∃ n ∈ ([0, 2, 31] : List FReg), n.toNat % 2 = 1) := ⟨reset_fpu, by decide, by decide, by decide⟩

/-- 0, the least subnormal and the largest finite double are finite; the second is a nonzero divisor. -/
theorem test_witness_FpResultsAreNearest :
    (dExp 0 < 2047 ∧ dExp 1 < 2047 ∧ dExp 0x7FEFFFFFFFFFFFFF < 2047) ∧ dVal 1 ≠ 0 := by decide

/-- The premises on underflow: the least normal number divided by 1 is normal, and 2/3 of it stays below. -/
theorem test_witness_FpResultsAreNearest_underflow :
    2 ^ 52 * (dVal 0x3FF0000000000000).natAbs ≤ (dVal 0x0010000000000000 * 2 ^ 1074 * (dVal 0x3FF0000000000000).sign).natAbs ∧
      4 * (dVal 0x0010000000000000 * 2 ^ 1074 * (dVal 0x3FF8000000000000).sign).natAbs <
        (2 ^ 54 - 1) * (dVal 0x3FF8000000000000).natAbs ∧
      (ieeeArith .nearestEven .div 0x0010000000000000 0x3FF8000000000000).flags.nx = true := by decide +kernel

theorem test_witness_FpSpecialCases :
    isNaN 0x7FF0000000000001 = true ∧
      (isNaN (infinity true) = false ∧ isNaN 0 = false ∧ isNaN 0x3FF0000000000000 = false) ∧
      ((isInf (infinity false) && isInf (infinity true) && (dSign (infinity false) != dSign (infinity true))) = true ∧
        (isInf (infinity true) && isZero 0) = true ∧ (isZero 0 && isZero 0x8000000000000000) = true) ∧
      (isInf 0x3FF0000000000000 = false ∧ isZero 0x3FF0000000000000 = false ∧ isZero 0x8000000000000000 = true) ∧
      (isInf (infinity false) = true ∧ isInf 0x3FF0000000000000 = false) ∧
      (isInf 0 = false ∧ isInf 0x8000000000000000 = false ∧ dVal 0 + dVal 0x8000000000000000 = 0) ∧
      (isInf (infinity false) && isInf (infinity true) && (dSign (infinity false) == dSign (infinity true))) = false ∧
      (isInf (infinity true) = true ∧ dSign (infinity true) = dSign (infinity true) ∧ dSign (infinity false) ≠ dSign (infinity true)) := by
  decide +kernel

theorem test_witness_FpMoveResults : State.reset.psr.ef = true ∧ (30 : FReg).toNat % 2 = 0 ∧ ∃ n ∈ ([2, 31] : List FReg), n.toNat % 2 = 1 := by
  decide

theorem test_witness_FitodResult : State.reset.psr.ef = true ∧ (30 : FReg).toNat % 2 = 0 := by decide

/-- The largest and least integers that fit, and the next ones, which do not. -/
theorem test_witness_FdtoiResult :
    State.reset.standardFpu ∧ (2 : FReg).toNat % 2 = 0 ∧
      (∀ p ∈ ([(0x41DFFFFFFFE00000, 2 ^ 31 - 1), (0xC1E00000001FFFFF, -2 ^ 31)] : List (Dword × Int)),
        p.2 = (dVal ((smallD 0 p.1).dreg 2)).tdiv (2 ^ 1074) ∧
          dExp ((smallD 0 p.1).dreg 2) < 2047 ∧ -2 ^ 31 ≤ p.2 ∧ p.2 ≤ 2 ^ 31 - 1) ∧
      ∀ p ∈ ([(0x41E0000000000000, 2 ^ 31), (0xC1E0000000200000, -2 ^ 31 - 1)] : List (Dword × Int)),
        p.2 = (dVal ((smallD 0 p.1).dreg 2)).tdiv (2 ^ 1074) ∧
          ¬ (dExp ((smallD 0 p.1).dreg 2) < 2047 ∧ -2 ^ 31 ≤ p.2 ∧ p.2 ≤ 2 ^ 31 - 1) :=
  ⟨reset_fpu, by decide, by decide +kernel, by decide +kernel⟩

/-- The premises on inexact beside invalid: an infinity, and an integer that does not fit. -/
theorem test_witness_FdtoiResult_inexact :
    dExp (infinity true) = 2047 ∧ dVal 0x41E0000000000000 = 2 ^ 31 * 2 ^ 1074 := by decide +kernel

theorem test_witness_FloatLoadStoreResults :
    0 = State.reset.reg 0 + State.reset.op2 (.imm 0) ∧ State.reset.psr.ef = true ∧ (30 : FReg).toNat % 2 = 0 ∧ (31 : FReg).toNat % 2 = 1 ∧
      State.reset.mem.wf ∧ State.reset.storable 0 8 :=
  ⟨by decide, by decide, by decide, by decide, by decide, ⟨⟨by decide, by decide⟩, by decide⟩⟩

theorem test_witness_FloatLoadStoreResults_odd :
    (31 : FReg).toNat % 2 = 1 ∧ (8 : Word).toNat % 8 = 0 ∧ (4 : Word).toNat % 8 ≠ 0 ∧
      8 = State.reset.reg 0 + State.reset.op2 (.imm 8) ∧ 4 = State.reset.reg 0 + State.reset.op2 (.imm 4) := by decide

theorem test_witness_FcmpdResult :
    State.reset.standardFpu ∧ (0 : FReg).toNat % 2 = 0 ∧ (30 : FReg).toNat % 2 = 0 ∧
      isNaN (State.reset.dreg 0) = false ∧ isNaN (State.reset.dreg 30) = false ∧ dExp 0x7FEFFFFFFFFFFFFF < 2047 :=
  ⟨reset_fpu, by decide, by decide, by decide, by decide, by decide⟩

theorem test_witness_DisabledFpuTraps :
    ({ State.reset with psr := { State.reset.psr with ef := false } } : State).psr.ef = false ∧ State.reset.inCondDelay = false ∧
      State.reset.afterFcmp = false ∧ State.reset.psr.ef = true := by decide

theorem test_witness_MemoryIsItsBytes :
    (Memory.empty.writeWord 0xFFFFFFFC 1).wf ∧ ((Memory.empty.writeWord 0xFFFFFFFC 1).writeByte 0 0).wf := by decide

theorem test_witness_HardwareTrapEntrySaves :
    (7 = BitVec.ofNat 5 ((State.reset.cwp.toNat + State.reset.params.nwindows.val - 1) % State.reset.params.nwindows.val)) ∧
      State.reset.psr.et = false ∧ ({ State.reset with psr := { State.reset.psr with et := true } } : State).psr.et = true := by decide

/-- A launch with a program of two words at ENTRY_PC, `add %g0, 5, %o0` and `st %o0, [%o1]`, data in the last byte of memory and six
arguments. -/
def programLaunch : Launch :=
  { Launch.default with
    args := #v[0x10, 0x11, 0x12, 0x13, 0x14, 0x15]
    windows := Vector.replicate 512 0x55
    program := [⟨0x1000, [0x90, 0x00, 0x20, 0x05, 0xD0, 0x22, 0x40, 0x00]⟩]
    data := [⟨0xFFFFFFFF, [0x77]⟩]
    params := { Launch.default.params with mapped := [⟨0x7FFFFE00, 0x200⟩] } }

theorem test_witness_LaunchLoadsProgram : LaunchReady programLaunch 6 96 where
  entry_aligned := by decide
  halt_aligned := by decide
  fits := by decide
  apart := by decide
  cwp_lt := by decide
  wim_high := fun i hi => by
    by_cases h32 : i < 32
    · exact (by decide : ∀ j < 32, 8 ≤ j → (2#32).getLsbD j = false) i h32 hi
    · exact BitVec.getLsbD_of_ge _ _ (by omega)
  windows := fun k h1 h6 => (by decide : ∀ j < 7, 1 ≤ j →
    programLaunch.wimInit.getLsbD ((programLaunch.cwpInit.toNat + j * (programLaunch.params.nwindows.val - 1)) %
      programLaunch.params.nwindows.val) = false) k (by omega) h1
  sp_aligned := by decide
  stack := by decide +kernel

/-- The first step of that launch runs the first word, and Text holds on it and not on the data. -/
theorem test_launch_runs_program :
    (match step (State.launch programLaunch) with
      | .next t => t.reg 8 == 5 && pcs 0x1004 0x1008 t
      | _ => false) = true ∧
      (State.launch programLaunch).isText 0x1007 = true ∧ (State.launch programLaunch).isText 0x1008 = false ∧
      (State.launch programLaunch).isText 0xFFFFFFFF = false ∧ (State.launch programLaunch).mem.readByte 0xFFFFFFFF = 0x77 := by decide

/-- The arguments stand in %o0 to %o5 of the entry window, %sp and %o7 beside them, and the other windowed registers keep their values. -/
theorem test_launch_outs :
    (List.range 10).map (fun k => (State.launch programLaunch).reg (BitVec.ofNat 5 (8 + k))) =
      [0x10, 0x11, 0x12, 0x13, 0x14, 0x15, 0x7FFFFF00, 0x1FF8, 0x55, 0x55] := by decide

theorem test_witness_LaunchValues :
    (0 < 6 ∧ 5 < 6) ∧ ∀ n : Reg, 8 ≤ n.toNat → n.toNat < 16 → (State.launch programLaunch).cell n ≠ .windowed 511 := by decide

end Sys2Proof.Tests
end

