-- ==== Sys2Proof/Proofs/Scope.lean ====
section
/-! PROOFS. What a step fetches and runs, the operand forms, and the launch state (spec 00_scope.md R6, R10, R13 to R15, 10_state.md R44,
70_reset_and_hazards.md R361, R362). -/

namespace Sys2Proof.Machine

/-! ### The step -/

/-- At HALT_PC nothing is fetched (R15). -/
theorem step_of_ended {s : State} (h : s.ended) : step s = .refused .runEnded := if_pos h

theorem State.fetches.step_eq {s : State} {w : Word} (h : s.fetches w) : step s = runWord exec w s := by
  rw [step, if_neg h.running, h.fetchWord_eq]

theorem runWord_of_decode_eq_instr {w : Word} {i : Instr} (h : decode w = .instr i) (run : Instr → State → Result) (s : State) :
    runWord run w s = run i s := by
  rw [runWord, h]

/-! ### Operand forms -/

/-- Sign extension keeps the signed value (R10, R92). -/
theorem State.toInt_op2_imm (s : State) (simm13 : BitVec 13) : (s.op2 (.imm simm13)).toInt = simm13.toInt :=
  BitVec.toInt_signExtend_of_le (by decide)

/-- An effective address wraps (R66). -/
theorem State.toNat_ea (s : State) (rs1 : Reg) (src2 : RegOrImm) :
    (s.ea rs1 src2).toNat = ((s.reg rs1).toNat + (s.op2 src2).toNat) % 2 ^ 32 :=
  BitVec.toNat_add _ _

/-- The five low-order bits are the remainder modulo 32 (R96). -/
theorem State.shiftCount_reg (s : State) (rs2 : Reg) : s.shiftCount (.reg rs2) = (s.reg rs2).toNat % 32 := by
  simp [State.shiftCount, BitVec.extractLsb'_toNat]

/-! ### The registers of the launch state -/

/-- `%o0` to `%o7` are registers 8 to 15 (R22). -/
theorem toNat_outNumber (k : Fin 8) : (BitVec.ofNat 5 (8 + k.val)).toNat = 8 + k.val := by
  rw [BitVec.toNat_ofNat]; omega

/-- The outs of a window are windowed registers (R23). -/
theorem regCell_out (nw : WindowCount) (w : BitVec 5) (k : Fin 8) :
    regCell nw w (BitVec.ofNat 5 (8 + k.val)) = .windowed (windowSlot nw w.toNat (8 + k.val)) := by
  have hn := toNat_outNumber k
  have h0 : BitVec.ofNat 5 (8 + k.val) ≠ 0 := fun e => by
    simp [e] at hn
    omega
  rw [regCell, if_neg h0, dif_neg (by omega), hn]

theorem State.cell_launch_out (l : Launch) (k : Fin 8) :
    (State.launch l).cell (BitVec.ofNat 5 (8 + k.val)) = .windowed (windowSlot l.params.nwindows l.cwpInit.toNat (8 + k.val)) :=
  regCell_out _ _ k

/-- The outs of the entry window are as the launch sets them (R361). -/
theorem State.reg_launch_out (l : Launch) (k : Fin 8) : (State.launch l).reg (BitVec.ofNat 5 (8 + k.val)) = l.outs.get k := by
  have hread := congrArg (State.launch l).readCell (State.cell_launch_out l k)
  exact hread.trans ((getElem_setOuts _ _ _ _).1 k)

/-- A windowed register that is no out of the entry window has the value R44 leaves unspecified. -/
theorem State.windows_launch_of_not_out (l : Launch) (c : Fin 512)
    (h : ∀ n : Reg, 8 ≤ n.toNat → n.toNat < 16 → (State.launch l).cell n ≠ .windowed c) :
    (State.launch l).windows[c] = l.windows[c] := by
  refine (getElem_setOuts _ _ _ _).2 c fun k hc => ?_
  have hn := toNat_outNumber k
  exact h _ (by omega) (by omega) (hc ▸ State.cell_launch_out l k)

/-! ### Memory, `Mapped` and `Text` of the launch state -/

theorem State.mapped_launch_iff {l : Launch} (hf : ∀ g ∈ l.program ++ l.data, g.base.toNat + g.bytes.length ≤ 2 ^ 32) (a : Word) :
    (State.launch l).mapped a = true ↔ (∃ g ∈ l.program ++ l.data, g.holds a) ∨ inRegions l.params.mapped a = true := by
  rw [← inRegions_segments _ hf, ← Bool.or_eq_true, ← inRegions_append]
  rfl

/-- `Text` implies `Mapped` (R6), which every program segment has by `State.mapped_launch_iff`. -/
theorem State.isText_launch_iff {l : Launch} (hf : ∀ g ∈ l.program ++ l.data, g.base.toNat + g.bytes.length ≤ 2 ^ 32) (a : Word) :
    (State.launch l).isText a = true ↔
      (∃ g ∈ l.program, g.holds a) ∨ (inRegions l.params.text a = true ∧ (State.launch l).mapped a = true) := by
  have hprogram : (∃ g ∈ l.program, g.holds a) → (State.launch l).mapped a = true := fun ⟨g, hg, ha⟩ =>
    (State.mapped_launch_iff hf a).2 (.inl ⟨g, List.mem_append_left _ hg, ha⟩)
  have hregions : inRegions (State.launch l).params.text a = true ↔
      (∃ g ∈ l.program, g.holds a) ∨ inRegions l.params.text a = true := by
    rw [← inRegions_segments _ (fun g hg => hf g (List.mem_append_left _ hg)), ← Bool.or_eq_true, ← inRegions_append]
    rfl
  rw [State.isText, Bool.and_eq_true, hregions, or_and_right, and_iff_left_of_imp hprogram]

/-- Item (3) of R362. -/
theorem State.standardFpu_launch (l : Launch) : (State.launch l).standardFpu := ⟨rfl, rfl, rfl, rfl⟩

/-- A launch at an aligned address, in a window that exists and with a legal WIM, meets the invariant. -/
theorem State.inv_launch {l : Launch} (hentry : l.entryPc.toNat % 4 = 0) (hcwp : l.cwpInit.toNat < l.params.nwindows.val)
    (hwim : ∀ i, l.params.nwindows.val ≤ i → l.wimInit.getLsbD i = false) : (State.launch l).Inv where
  memory := Memory.wf_load Memory.wf_empty _
  pc_aligned := hentry
  npc_aligned := by
    show (l.entryPc + 4).toNat % 4 = 0
    bv_omega
  cwp_lt := hcwp
  wim_high := hwim
  fq_empty := rfl

/-- The first step of a ready launch fetches the first four bytes of the program segment at ENTRY_PC (R55, R362(1)). -/
theorem State.fetches_launch {l : Launch} {saves below : Nat} (hl : LaunchReady l saves below) {g : Segment} (hg : g ∈ l.program)
    {b0 b1 b2 b3 : Byte} {rest : List Byte} (hbase : g.base = l.entryPc) (hbytes : g.bytes = b0 :: b1 :: b2 :: b3 :: rest)
    (hrun : l.entryPc ≠ l.params.haltPc) : (State.launch l).fetches (wordOfBytes b0 b1 b2 b3) := by
  have hmem : g ∈ l.program ++ l.data := List.mem_append_left _ hg
  have hlen : ∀ k < 4, k < g.bytes.length := fun k hk => by simp [hbytes]; omega
  have hread : ∀ (k : Nat) (hk : k < 4),
      (State.launch l).mem.readByte (l.entryPc + BitVec.ofNat 32 k) = g.bytes[k]'(hlen k hk) := fun k hk =>
    hbase ▸ Memory.readByte_load _ Memory.wf_empty hl.fits hl.apart g hmem k (hlen k hk)
  refine ⟨hrun, hl.entry_aligned, fun k hk => ?_, ?_⟩
  · exact (State.mapped_launch_iff hl.fits _).2 (.inl ⟨g, hmem, k, hlen k hk, by rw [hbase]; rfl⟩)
  · have h0 := hread 0 (by decide)
    have h1 := hread 1 (by decide)
    have h2 := hread 2 (by decide)
    have h3 := hread 3 (by decide)
    simp only [hbytes, List.getElem_cons_zero, List.getElem_cons_succ, BitVec.add_zero] at h0 h1 h2 h3
    exact (congr (congr (congrArg₂ wordOfBytes h0 h1) h2) h3).symm

/-! ### The obligations -/

/-- Settles O7: the fetched word is run, and running it is `exec` of what it decodes to. -/
theorem stepRunsInstruction : Obligations.StepRunsInstruction := fun s _ _ hfetch hdecode =>
  hfetch.step_eq.trans (runWord_of_decode_eq_instr hdecode exec s)

/-- Settles O9. -/
theorem endedRunHasNoStep : Obligations.EndedRunHasNoStep := fun _ => step_of_ended

/-- Settles O23, one lemma for each operand form. -/
theorem operandForms : Obligations.OperandForms := fun s rs1 rs2 simm13 _ src2 =>
  ⟨s.toInt_op2_imm simm13, rfl, s.toNat_ea rs1 src2, s.shiftCount_reg rs2, rfl⟩

/-- Settles O14: the outs of the entry window are read through their slots, the other values are fields of the launch. -/
theorem launchValues : Obligations.LaunchValues := by
  refine ⟨fun l => ?_, rfl, rfl, rfl, rfl⟩
  obtain ⟨hargs, hsp, hlink⟩ := outs_get l
  refine ⟨rfl, rfl, rfl, rfl, rfl, rfl, rfl, rfl, State.standardFpu_launch l, rfl, rfl, rfl, rfl, rfl, rfl, rfl, rfl, ?link, ?sp, ?args,
    rfl, rfl, rfl, rfl, rfl, State.windows_launch_of_not_out l⟩
  case link => exact (State.reg_launch_out l 7).trans hlink
  case sp => exact (State.reg_launch_out l 6).trans hsp
  case args => exact fun k h => (State.reg_launch_out l ⟨k, by omega⟩).trans (hargs k h)

/-- Settles O60, from what the segments put into memory and into the regions of `Mapped` and `Text`. -/
theorem launchLoadsProgram : Obligations.LaunchLoadsProgram := fun _ _ _ hl =>
  ⟨Memory.readByte_load _ Memory.wf_empty hl.fits hl.apart, State.mapped_launch_iff hl.fits, State.isText_launch_iff hl.fits,
    State.standardFpu_launch _, State.inv_launch hl.entry_aligned hl.cwp_lt hl.wim_high,
    fun _ hg _ _ _ _ _ hbase hbytes hrun => State.fetches_launch hl hg hbase hbytes hrun⟩

end Sys2Proof.Machine
end

/-! PROOFS. The state (spec 10_state.md): how each instruction ends, and from that the invariant, the constants, the frame and the
advance of every instruction. -/

namespace Sys2Proof.Machine

/-! ### How an instruction ends

One case for each way an instruction that answers a next state can end, whatever its operands. The invariant, the frame, the writers of
the special registers and the advance are read off these cases. -/

/-- `Ending s parts transfer fcmpd t`: an instruction that writes `parts`, and is a control transfer or `fcmpd` as the flags say, may end in
`t` from `s`. -/
inductive Ending (s : State) : List Part → Bool → Bool → State → Prop
  | nothing : Ending s [] false false s.advance
  | result (rd : Reg) (v : Word) : Ending s [.registers] false false (s.setReg rd v).advance
  | resultCc (rd : Reg) (v : Word) (icc : Icc) :
    Ending s [.registers, .icc] false false { (s.setReg rd v).advance with icc := icc }
  | product (rd : Reg) (v y : Word) : Ending s [.registers, .y] false false ({ s with y := y }.setReg rd v).advance
  | productCc (rd : Reg) (v y : Word) (icc : Icc) :
    Ending s [.registers, .y, .icc] false false { ({ s with y := y }.setReg rd v).advance with icc := icc }
  | pair (rd rd' : Reg) (v v' : Word) : Ending s [.registers] false false ((s.setReg rd v).setReg rd' v').advance
  | window (new : BitVec 5) (rd : Reg) (v : Word)
    (hnew : new = windowBelow s.params.nwindows s.cwp ∨ new = windowAbove s.params.nwindows s.cwp) :
    Ending s [.registers, .window] false false ({ s with cwp := new }.setRegIn new rd v).advance
  | jump (rd : Reg) (target : Word) (haligned : s.pc.toNat % 4 = 0 → target.toNat % 4 = 0) :
    Ending s [.registers] true false ((s.setReg rd s.pc).jumpDelayed target)
  | branch (always annul taken : Bool) (disp22 : BitVec 22) :
    Ending s [] true false (branchState s always annul taken disp22)
  | store (m : Memory) (hwf : s.mem.wf → m.wf) : Ending s [.memory] false false { s with mem := m }.advance
  | fpDouble (rd : FReg) (v : Dword) (e : IeeeFlags) :
    Ending s [.floats, .fpStatus] false false { (s.setDreg rd v).advance with cexc := e, aexc := s.aexc.union e, ftt := .none }
  | fpSingle (rd : FReg) (v : Word) (e : IeeeFlags) :
    Ending s [.floats, .fpStatus] false false { (s.setFreg rd v).advance with cexc := e, aexc := s.aexc.union e, ftt := .none }
  | fpLoad (rd : FReg) (v : Dword) : Ending s [.floats] false false (s.setDreg rd v).advance
  | compare (fcc : Fcc) (e : IeeeFlags) :
    Ending s [.fcc, .fpStatus] false true
      { s.advance with fcc := fcc, afterFcmp := true, cexc := e, aexc := s.aexc.union e, ftt := .none }

/-! ### The ending of each family -/

theorem Ending.of_writeResult {s t : State} {rd : Reg} {v : Word} (h : writeResult s rd v = .next t) :
    Ending s [.registers] false false t :=
  (writeResult_eq_next_iff ..).1 h ▸ .result rd v

theorem Ending.of_writeResultCc {s t : State} {rd : Reg} {v : Word} {icc : Icc} (h : writeResultCc s rd v icc = .next t) :
    Ending s [.registers, .icc] false false t :=
  (writeResultCc_eq_next_iff ..).1 h ▸ .resultCc rd v icc

theorem Ending.of_multiply {s t : State} {rd : Reg} {v y : Word} (h : writeResult { s with y := y } rd v = .next t) :
    Ending s [.registers, .y] false false t :=
  (writeResult_eq_next_iff ..).1 h ▸ .product rd v y

theorem Ending.of_multiplyCc {s t : State} {rd : Reg} {v y : Word} {icc : Icc}
    (h : writeResultCc { s with y := y } rd v icc = .next t) : Ending s [.registers, .y, .icc] false false t :=
  (writeResultCc_eq_next_iff ..).1 h ▸ .productCc rd v y icc

theorem Ending.of_divide {s t : State} {b : Word} {rd : Reg} {v : Word} (h : withDivisor s b (writeResult s rd v) = .next t) :
    Ending s [.registers] false false t :=
  .of_writeResult ((withDivisor_eq_next_iff ..).1 h).2

theorem Ending.of_divideCc {s t : State} {b : Word} {rd : Reg} {v : Word} {icc : Icc}
    (h : withDivisor s b (writeResultCc s rd v icc) = .next t) : Ending s [.registers, .icc] false false t :=
  .of_writeResultCc ((withDivisor_eq_next_iff ..).1 h).2

theorem Ending.of_nop {s t : State} (h : execNop s = .next t) : Ending s [] false false t :=
  (next_eq_next_iff ..).1 h ▸ .nothing

theorem Ending.of_save {s t : State} {rs1 : Reg} {src2 : RegOrImm} {rd : Reg} (h : execSave rs1 src2 rd s = .next t) :
    Ending s [.registers, .window] false false t := by
  obtain ⟨-, rfl⟩ := (changeWindow_eq_next_iff ..).1 h
  exact .window _ rd _ (.inl rfl)

theorem Ending.of_restore {s t : State} {rs1 : Reg} {src2 : RegOrImm} {rd : Reg} (h : execRestore rs1 src2 rd s = .next t) :
    Ending s [.registers, .window] false false t := by
  obtain ⟨-, rfl⟩ := (changeWindow_eq_next_iff ..).1 h
  exact .window _ rd _ (.inr rfl)

/-- A word displacement keeps a multiple of 4 one: for `call` and the branches. -/
theorem aligned_add_four_mul {a : Word} (h : a.toNat % 4 = 0) (d : Word) : (a + 4 * d).toNat % 4 = 0 := by
  bv_omega

theorem Ending.of_call {s t : State} {disp30 : BitVec 30} (h : execCall disp30 s = .next t) : Ending s [.registers] true false t := by
  obtain ⟨-, h⟩ := (withoutCouple_eq_next_iff ..).1 h
  exact (next_eq_next_iff ..).1 h ▸ .jump 15 _ fun hpc => aligned_add_four_mul hpc _

theorem Ending.of_jmpl {s t : State} {rs1 : Reg} {src2 : RegOrImm} {rd : Reg} (h : execJmpl rs1 src2 rd s = .next t) :
    Ending s [.registers] true false t := by
  obtain ⟨-, h⟩ := (withoutCouple_eq_next_iff ..).1 h
  split at h
  · simp at h
  · exact (next_eq_next_iff ..).1 h ▸ .jump rd _ fun _ => by omega

theorem Ending.of_integerBranchTo {s t : State} {always annul taken : Bool} {disp22 : BitVec 22}
    (h : integerBranchTo s always annul taken disp22 = .next t) : Ending s [] true false t := by
  obtain ⟨-, rfl⟩ := (integerBranchTo_eq_next_iff ..).1 h
  exact .branch ..

theorem Ending.of_floatBranchTo {s t : State} {always annul taken : Bool} {disp22 : BitVec 22}
    (h : floatBranchTo s always annul taken disp22 = .next t) : Ending s [] true false t := by
  obtain ⟨-, -, -, rfl⟩ := (floatBranchTo_eq_next_iff ..).1 h
  exact .branch ..

theorem Ending.of_loadInto {s t : State} {ea : Word} {size : Nat} {rd : Reg} {v : Word} (h : loadInto s ea size rd v = .next t) :
    Ending s [.registers] false false t := by
  obtain ⟨-, -, rfl⟩ := (loadInto_eq_next_iff ..).1 h
  exact .result rd v

theorem Ending.of_ldd {s t : State} {rs1 : Reg} {src2 : RegOrImm} {rd : Reg} (h : execLdd rs1 src2 rd s = .next t) :
    Ending s [.registers] false false t := by
  obtain ⟨-, h⟩ := (withEvenRd_eq_next_iff ..).1 h
  obtain ⟨-, -, h⟩ := (withAccess_eq_next_iff ..).1 h
  exact (next_eq_next_iff ..).1 h ▸ .pair rd (rd + 1) _ _

theorem Ending.of_storeTo {s t : State} {ea : Word} {size : Nat} {m : Memory} (h : storeTo s ea size m = .next t)
    (hwf : s.mem.wf → m.wf) : Ending s [.memory] false false t := by
  obtain ⟨-, -, -, rfl⟩ := (storeTo_eq_next_iff ..).1 h
  exact .store m hwf

theorem Ending.of_stdf {s t : State} {rs1 : Reg} {src2 : RegOrImm} {rd : FReg} (h : execStdf rs1 src2 rd s = .next t) :
    Ending s [.memory] false false t := by
  obtain ⟨-, h⟩ := (withFpu_eq_next_iff ..).1 h
  obtain ⟨-, h⟩ := (withEven_eq_next_iff ..).1 h
  exact .of_storeTo h fun hm => Memory.wf_writeDword hm _ _

theorem Ending.of_fpBinary {s t : State} {op : FpOp} {rs1 rs2 rd : FReg} (h : fpBinary op rs1 rs2 rd s = .next t) :
    Ending s [.floats, .fpStatus] false false t := by
  obtain ⟨-, -, -, rfl⟩ := (fpBinary_eq_next_iff ..).1 h
  exact .fpDouble rd _ _

theorem Ending.of_fpMove {s t : State} {g : Dword → Dword} {rs2 rd : FReg} (h : fpMove g rs2 rd s = .next t) :
    Ending s [.floats, .fpStatus] false false t := by
  obtain ⟨-, -, rfl⟩ := (fpMove_eq_next_iff ..).1 h
  exact .fpDouble rd _ _

/-- The checks of a floating operate instruction, and what it ends in (R40, R260). -/
theorem fpop_eq_next_iff (s : State) (regs : List FReg) (e : IeeeFlags) (u t : State) :
    withFpu s (withEven s regs (finishFpop s e u)) = .next t ↔
      s.psr.ef = true ∧ (∀ n ∈ regs, isEven n = true) ∧ e.meets s.fsr.tem = false ∧
        t = { u with cexc := e, aexc := s.aexc.union e, ftt := .none } := by
  rw [withFpu_eq_next_iff, withEven_eq_next_iff, finishFpop_eq_next_iff]

theorem Ending.of_fitod {s t : State} {rs2 rd : FReg} (h : execFitod rs2 rd s = .next t) :
    Ending s [.floats, .fpStatus] false false t := by
  obtain ⟨-, -, -, rfl⟩ := (fpop_eq_next_iff ..).1 h
  exact .fpDouble rd _ _

theorem Ending.of_fdtoi {s t : State} {rs2 rd : FReg} (h : execFdtoi rs2 rd s = .next t) :
    Ending s [.floats, .fpStatus] false false t := by
  obtain ⟨-, -, -, rfl⟩ := (fpop_eq_next_iff ..).1 h
  exact .fpSingle rd _ _

theorem Ending.of_fcmpd {s t : State} {rs1 rs2 : FReg} (h : execFcmpd rs1 rs2 s = .next t) :
    Ending s [.fcc, .fpStatus] false true t := by
  obtain ⟨-, -, -, rfl⟩ := (fpop_eq_next_iff ..).1 h
  exact .compare _ _

theorem Ending.of_lddf {s t : State} {rs1 : Reg} {src2 : RegOrImm} {rd : FReg} (h : execLddf rs1 src2 rd s = .next t) :
    Ending s [.floats] false false t := by
  obtain ⟨-, h⟩ := (withFpu_eq_next_iff ..).1 h
  obtain ⟨-, h⟩ := (withEven_eq_next_iff ..).1 h
  obtain ⟨-, -, h⟩ := (withAccess_eq_next_iff ..).1 h
  exact (next_eq_next_iff ..).1 h ▸ .fpLoad rd _

/-- Every instruction that answers a next state ends in one of these ways, with the parts, the kind and the hidden bit of the tables
`changes`, `isTransfer` and `isFcmpd`. -/
theorem exec_ending {i : Instr} {s t : State} (h : exec i s = .next t) : Ending s (changes i) (isTransfer i) (isFcmpd i) t := by
  cases i with
  | add | sub | and | andn | or | orn | xor | xnor | sll | srl | sra | sethi => exact .of_writeResult h
  | addcc | subcc | andcc | andncc | orcc | orncc | xorcc | xnorcc => exact .of_writeResultCc h
  | umul | smul => exact .of_multiply h
  | umulcc | smulcc => exact .of_multiplyCc h
  | udiv | sdiv => exact .of_divide h
  | udivcc | sdivcc => exact .of_divideCc h
  | nop => exact .of_nop h
  | save => exact .of_save h
  | restore => exact .of_restore h
  | call => exact .of_call h
  | jmpl => exact .of_jmpl h
  | ba | bn | bne | be | bg | ble | bge | bl | bgu | bleu | bcc | bcs | bpos | bneg | bvc | bvs => exact .of_integerBranchTo h
  | fba | fbn | fbu | fbg | fbug | fbl | fbul | fblg | fbne | fbe | fbue | fbge | fbuge | fble | fbule | fbo =>
    exact .of_floatBranchTo h
  | ldsb | ldsh | ldub | lduh | ld => exact .of_loadInto h
  | ldd => exact .of_ldd h
  | stb => exact .of_storeTo h fun hm => Memory.wf_writeByte hm _ _
  | sth => exact .of_storeTo h fun hm => Memory.wf_writeHalf hm _ _
  | st => exact .of_storeTo h fun hm => Memory.wf_writeWord hm _ _
  | std =>
    obtain ⟨-, h⟩ := (withEvenRd_eq_next_iff ..).1 h
    exact .of_storeTo h fun hm => Memory.wf_writeDword hm _ _
  | stdf => exact .of_stdf h
  | lddf => exact .of_lddf h
  | faddd | fsubd | fmuld | fdivd => exact .of_fpBinary h
  | fmovd | fnegd | fabsd => exact .of_fpMove h
  | fitod => exact .of_fitod h
  | fdtoi => exact .of_fdtoi h
  | fcmpd => exact .of_fcmpd h

/-! ### What every ending keeps -/

/-- The frame of every ending (R20). -/
theorem Ending.onlyChanged {s t : State} {parts : List Part} {transfer fcmpd : Bool} (h : Ending s parts transfer fcmpd t) :
    OnlyChanged parts s t := by
  cases h with
  | nothing => exact ⟨⟨rfl, rfl, rfl, rfl, rfl, rfl, rfl, rfl⟩, fun p _ => by cases p <;> simp [Part.same]⟩
  | result rd v =>
    obtain ⟨-, -, h⟩ := load_state s rd v
    exact h
  | resultCc rd v icc =>
    obtain ⟨u, hu, -, -, -, h⟩ := writeResultCc_answers s rd v icc
    exact (writeResultCc_eq_next_iff ..).1 hu ▸ h
  | product rd v y =>
    obtain ⟨u, hu, -, -, -, h⟩ := writeResult_y_answers s rd v y
    exact (writeResult_eq_next_iff ..).1 hu ▸ h
  | productCc rd v y icc =>
    obtain ⟨u, hu, -, -, -, -, h⟩ := writeResultCc_y_answers s rd v y icc
    exact (writeResultCc_eq_next_iff ..).1 hu ▸ h
  | pair rd rd' v v' =>
    refine ⟨by constructor <;> simp, fun p hp => ?_⟩
    cases p <;> simp_all [Part.same, State.freg]
  | window new rd v =>
    obtain ⟨-, -, -, h⟩ := changeWindow_state s new rd v
    exact h
  | jump rd target =>
    obtain ⟨-, -, h⟩ := jump_state s rd target
    exact h
  | branch always annul taken disp22 => exact branch_state s always annul taken disp22
  | store m =>
    obtain ⟨-, -, h⟩ := store_state s m
    exact h
  | fpDouble rd v e =>
    obtain ⟨-, -, -, h⟩ := fpop_double_state s rd v e
    exact h
  | fpSingle rd v e =>
    obtain ⟨-, -, -, h⟩ := fpop_single_state s rd v e
    exact h
  | fpLoad rd v =>
    obtain ⟨-, -, h⟩ := float_load_state s rd v
    exact h
  | compare fcc e =>
    refine ⟨⟨rfl, rfl, rfl, rfl, rfl, rfl, rfl, rfl⟩, fun p hp => ?_⟩
    cases p with
    | registers => exact fun c => State.readCell_congr rfl rfl c
    | floats => exact fun _ => rfl
    | _ => simp_all [Part.same]

/-- The advance of every ending that is not a control transfer, and the hidden bit that `fcmpd` alone sets (R29, R43). -/
theorem Ending.advances {s t : State} {parts : List Part} {fcmpd : Bool} (h : Ending s parts false fcmpd t) :
    t.pc = s.npc ∧ t.npc = s.npc + 4 ∧ t.inCondDelay = false ∧ t.afterFcmp = fcmpd := by
  cases h <;> simp

theorem aligned_add_four {a : Word} (h : a.toNat % 4 = 0) : (a + 4).toNat % 4 = 0 := by
  bv_omega

/-- A branch goes on at npc, past the annulled delay slot, or at its target: all multiples of 4 (R27, R94). -/
theorem aligned_branchState {s : State} (hpc : s.pc.toNat % 4 = 0) (hnpc : s.npc.toNat % 4 = 0) (always annul taken : Bool)
    (disp22 : BitVec 22) :
    (branchState s always annul taken disp22).pc.toNat % 4 = 0 ∧ (branchState s always annul taken disp22).npc.toNat % 4 = 0 := by
  have htarget : (branchTarget s disp22).toNat % 4 = 0 := aligned_add_four_mul hpc _
  have hnpc4 := aligned_add_four hnpc
  have hnpc8 : (s.npc + 8).toNat % 4 = 0 := by bv_omega
  have htarget4 := aligned_add_four htarget
  unfold branchState
  split
  · split
    · exact ⟨htarget, htarget4⟩
    · exact ⟨hnpc, htarget⟩
  · split
    · exact ⟨hnpc4, hnpc8⟩
    · exact ⟨hnpc, hnpc4⟩

/-- Every ending keeps pc and npc multiples of 4 (R27). -/
theorem Ending.aligned {s t : State} {parts : List Part} {transfer fcmpd : Bool} (h : Ending s parts transfer fcmpd t)
    (hpc : s.pc.toNat % 4 = 0) (hnpc : s.npc.toNat % 4 = 0) : t.pc.toNat % 4 = 0 ∧ t.npc.toNat % 4 = 0 := by
  cases transfer with
  | false =>
    obtain ⟨htpc, htnpc, -⟩ := h.advances
    exact ⟨htpc ▸ hnpc, htnpc ▸ aligned_add_four hnpc⟩
  | true =>
    cases h with
    | jump rd target haligned => exact ⟨by simpa using hnpc, haligned hpc⟩
    | branch always annul taken disp22 => exact aligned_branchState hpc hnpc always annul taken disp22

/-- Every ending keeps the memory in canonical form: only stores write it. -/
theorem Ending.wf_mem {s t : State} {parts : List Part} {transfer fcmpd : Bool} (h : Ending s parts transfer fcmpd t)
    (hwf : s.mem.wf) : t.mem.wf := by
  cases h with
  | store m hm => exact hm hwf
  | _ => simpa using hwf

/-- The windows that `save` and `restore` enter exist (R24). -/
theorem toNat_windowBelow (nw : WindowCount) (w : BitVec 5) : (windowBelow nw w).toNat = (w.toNat + nw.val - 1) % nw.val := by
  have hlt := Nat.mod_lt (w.toNat + nw.val - 1) (by have := nw.2; omega : nw.val > 0)
  rw [windowBelow, BitVec.toNat_ofNat, Nat.mod_eq_of_lt (by have := nw.2; omega)]

theorem toNat_windowAbove (nw : WindowCount) (w : BitVec 5) : (windowAbove nw w).toNat = (w.toNat + 1) % nw.val := by
  have hlt := Nat.mod_lt (w.toNat + 1) (by have := nw.2; omega : nw.val > 0)
  rw [windowAbove, BitVec.toNat_ofNat, Nat.mod_eq_of_lt (by have := nw.2; omega)]

/-- Every ending keeps CWP below NWINDOWS (R24). -/
theorem Ending.cwp_lt {s t : State} {parts : List Part} {transfer fcmpd : Bool} (h : Ending s parts transfer fcmpd t)
    (hcwp : s.cwp.toNat < s.params.nwindows.val) : t.cwp.toNat < s.params.nwindows.val := by
  have hpos : s.params.nwindows.val > 0 := by omega
  cases h with
  | window new rd v hnew =>
    rcases hnew with rfl | rfl
    · simpa [toNat_windowBelow] using Nat.mod_lt _ hpos
    · simpa [toNat_windowAbove] using Nat.mod_lt _ hpos
  | _ => simpa using hcwp

/-- Every ending keeps the invariant. -/
theorem Ending.inv {s t : State} {parts : List Part} {transfer fcmpd : Bool} (h : Ending s parts transfer fcmpd t) (hs : s.Inv) :
    t.Inv := by
  obtain ⟨hconst, -⟩ := h.onlyChanged
  obtain ⟨hpc, hnpc⟩ := h.aligned hs.pc_aligned hs.npc_aligned
  exact
    { memory := h.wf_mem hs.memory
      pc_aligned := hpc
      npc_aligned := hnpc
      cwp_lt := by rw [hconst.params]; exact h.cwp_lt hs.cwp_lt
      wim_high := by rw [hconst.params, hconst.wim]; exact hs.wim_high
      fq_empty := by rw [hconst.fq, hs.fq_empty] }

/-- A step that answers a next state has run an instruction (R13). -/
theorem exec_of_step {s t : State} (h : step s = .next t) : ∃ i, exec i s = .next t := by
  unfold step at h
  split at h
  · cases h
  · split at h
    · cases h
    · obtain ⟨i, -, hi⟩ := (runWord_eq_next_iff ..).1 h
      exact ⟨i, hi⟩

/-! ### The obligations on every instruction and every step -/

/-- Settles O11: the step runs an instruction, and every ending keeps the invariant. -/
theorem stepKeepsInvariant : Obligations.StepKeepsInvariant := fun _ _ hs hstep =>
  let ⟨_, hexec⟩ := exec_of_step hstep
  (exec_ending hexec).inv hs

/-- Settles O13: the constants are part of every frame. -/
theorem stepKeepsConstants : Obligations.StepKeepsConstants := fun _ _ hstep =>
  let ⟨_, hexec⟩ := exec_of_step hstep
  (exec_ending hexec).onlyChanged.constants

/-- Settles O15. -/
theorem frameOfEveryInstruction : Obligations.FrameOfEveryInstruction := fun _ _ _ h => (exec_ending h).onlyChanged

/-- Settles O17. -/
theorem advanceOfNonTransfers : Obligations.AdvanceOfNonTransfers := fun _ _ _ hi h =>
  Ending.advances (hi ▸ exec_ending h)

theorem not_mem_of_contains_eq_false {p : Part} {parts : List Part} (h : parts.contains p = false) : p ∉ parts := by
  simpa using h

/-- Settles O16: each list of writers is the list of the instructions whose frame holds the register. -/
theorem specialRegisterWriters : Obligations.SpecialRegisterWriters := by
  intro i s t h
  have hframe := (exec_ending h).onlyChanged.others
  refine ⟨fun hi => hframe .icc (not_mem_of_contains_eq_false (.trans ?_ hi)),
    fun hi => hframe .y (not_mem_of_contains_eq_false (.trans ?_ hi)),
    fun hi => hframe .window (not_mem_of_contains_eq_false (.trans ?_ hi)),
    fun hi => hframe .fcc (not_mem_of_contains_eq_false (.trans ?_ hi))⟩
  all_goals cases i <;> rfl

end Sys2Proof.Machine

/-! PROOFS. Register windows and the memory as data (spec 10_state.md R21 to R24, R42; 44_control.md R184). -/

namespace Sys2Proof.Machine

/-! ### Cells of a window -/

/-- A slot as a window and a place in it: the outs and locals of window `w` stand in window `w`'s sixteen, its ins in those of the next
window (R23). -/
theorem windowSlot_val (nw : WindowCount) (w n : Nat) :
    (windowSlot nw w n).val = 16 * ((w + (n - 8) / 16) % nw.val) + (n - 8) % 16 := by
  have hsum : 16 * w + (n - 8) = (n - 8) % 16 + 16 * (w + (n - 8) / 16) := by omega
  have hdiv : ((n - 8) % 16 + 16 * (w + (n - 8) / 16)) / 16 = w + (n - 8) / 16 := by omega
  show (16 * w + (n - 8)) % (16 * nw.val) = _
  rw [hsum, Nat.mod_mul, hdiv]
  omega

/-- Two registers share a slot exactly when they have the same place in the same window's sixteen. -/
theorem windowSlot_eq_iff (nw : WindowCount) (w n w' n' : Nat) :
    windowSlot nw w n = windowSlot nw w' n' ↔
      (w + (n - 8) / 16) % nw.val = (w' + (n' - 8) / 16) % nw.val ∧ (n - 8) % 16 = (n' - 8) % 16 := by
  rw [Fin.ext_iff, windowSlot_val, windowSlot_val]
  omega

theorem regCell_of_lt (nw : WindowCount) (w : BitVec 5) {n : Reg} (h1 : 1 ≤ n.toNat) (h8 : n.toNat < 8) :
    regCell nw w n = .global ⟨n.toNat - 1, by omega⟩ := by
  have h0 : n ≠ 0 := by rintro rfl; simp at h1
  rw [regCell, if_neg h0, dif_pos h8]

theorem regCell_of_le (nw : WindowCount) (w : BitVec 5) {n : Reg} (h8 : 8 ≤ n.toNat) :
    regCell nw w n = .windowed (windowSlot nw w.toNat n.toNat) := by
  have h0 : n ≠ 0 := by rintro rfl; simp at h8
  rw [regCell, if_neg h0, dif_neg (by omega)]

/-- The cell of a register with its number: the constant, a global, or a windowed register (R21). -/
theorem regCell_cases (nw : WindowCount) (w : BitVec 5) (n : Reg) :
    (n = 0 ∧ regCell nw w n = .zero) ∨
      (∃ h : n.toNat - 1 < 7, 1 ≤ n.toNat ∧ n.toNat < 8 ∧ regCell nw w n = .global ⟨n.toNat - 1, h⟩) ∨
      (8 ≤ n.toNat ∧ regCell nw w n = .windowed (windowSlot nw w.toNat n.toNat)) := by
  by_cases h0 : n.toNat = 0
  · obtain rfl : n = 0 := BitVec.eq_of_toNat_eq h0
    exact .inl ⟨rfl, rfl⟩
  · by_cases h8 : n.toNat < 8
    · exact .inr (.inl ⟨by omega, by omega, h8, regCell_of_lt nw w (by omega) h8⟩)
    · exact .inr (.inr ⟨by omega, regCell_of_le nw w (by omega)⟩)

/-- A name in window `w` is a name of slot `k` when it is windowed and its slot is `k`. -/
theorem regCell_eq_windowed_iff (nw : WindowCount) (w : BitVec 5) (n : Reg) (k : Fin 512) :
    regCell nw w n = .windowed k ↔ 8 ≤ n.toNat ∧ windowSlot nw w.toNat n.toNat = k := by
  rcases regCell_cases nw w n with ⟨rfl, h⟩ | ⟨_, _, h8, h⟩ | ⟨h8, h⟩
  · rw [h]
    simp
  · simp only [h, reduceCtorEq, false_iff]
    omega
  · simp [h, h8]

/-- Fewer than NWINDOWS windows up from one window are different windows. -/
theorem eq_of_add_mod_eq {N v a b : Nat} (ha : a < N) (hb : b < N) (h : (v + a) % N = (v + b) % N) : a = b := by
  have hab : a % N = b % N := Nat.ModEq.add_left_cancel' v h
  rwa [Nat.mod_eq_of_lt ha, Nat.mod_eq_of_lt hb] at hab

/-- The 32 registers of a window are 32 cells: an in and an out at one place stand in the sixteens of two different windows. -/
theorem regCell_injective (nw : WindowCount) (w : BitVec 5) : Function.Injective (regCell nw w) := by
  intro n m h
  rcases regCell_cases nw w n with ⟨rfl, hn⟩ | ⟨_, hn1, -, hn⟩ | ⟨hn8, hn⟩
  · exact ((regCell_eq_zero_iff ..).1 (h.symm.trans hn)).symm
  · rcases regCell_cases nw w m with ⟨-, hm⟩ | ⟨_, hm1, -, hm⟩ | ⟨-, hm⟩
    · cases hn.symm.trans (h.trans hm)
    · have hnum : n.toNat - 1 = m.toNat - 1 := congrArg Fin.val (RegCell.global.inj (hn.symm.trans (h.trans hm)))
      exact BitVec.eq_of_toNat_eq (by omega)
    · cases hn.symm.trans (h.trans hm)
  · obtain ⟨hm8, hslot⟩ := (regCell_eq_windowed_iff ..).1 (h.symm.trans hn)
    obtain ⟨hwindow, hplace⟩ := (windowSlot_eq_iff ..).1 hslot
    have hnw := nw.2
    have := n.isLt
    have := m.isLt
    have hquot := eq_of_add_mod_eq (by omega) (by omega) hwindow
    exact BitVec.eq_of_toNat_eq (by omega)

/-- A local of a window shares its cell with no register of another window. -/
theorem regCell_local_ne (nw : WindowCount) {w w' : BitVec 5} {n : Reg} (hw : w.toNat < nw.val) (hw' : w'.toNat < nw.val) (hne : w' ≠ w)
    (hlo : 16 ≤ n.toNat) (hhi : n.toNat < 24) (m : Reg) : regCell nw w' m ≠ regCell nw w n := by
  intro h
  obtain ⟨hm8, hslot⟩ := (regCell_eq_windowed_iff ..).1 (h.trans (regCell_of_le nw w (by omega)))
  obtain ⟨hwindow, hplace⟩ := (windowSlot_eq_iff ..).1 hslot
  have hm := m.isLt
  rw [show (m.toNat - 8) / 16 = 0 by omega, show (n.toNat - 8) / 16 = 0 by omega, Nat.add_zero, Nat.add_zero, Nat.mod_eq_of_lt hw,
    Nat.mod_eq_of_lt hw'] at hwindow
  exact hne (BitVec.eq_of_toNat_eq hwindow)

/-- The ins of a window are the outs of the next (R23). -/
theorem regCell_in_eq_out (nw : WindowCount) (w : BitVec 5) {k : Nat} (hk : k < 8) :
    regCell nw w (BitVec.ofNat 5 (24 + k)) = regCell nw (BitVec.ofNat 5 ((w.toNat + 1) % nw.val)) (BitVec.ofNat 5 (8 + k)) := by
  have hin : (BitVec.ofNat 5 (24 + k)).toNat = 24 + k := by rw [BitVec.toNat_ofNat]; omega
  have hout : (BitVec.ofNat 5 (8 + k)).toNat = 8 + k := toNat_outNumber ⟨k, hk⟩
  rw [regCell_of_le _ _ (by omega), regCell_of_le _ _ (by omega), hin, hout, RegCell.windowed.injEq, windowSlot_eq_iff]
  have habove : (BitVec.ofNat 5 ((w.toNat + 1) % nw.val)).toNat = (w.toNat + 1) % nw.val := toNat_windowAbove nw w
  rw [habove, show (24 + k - 8) / 16 = 1 by omega, show (8 + k - 8) / 16 = 0 by omega]
  exact ⟨(Nat.mod_mod _ _).symm, by omega⟩

/-! ### The window that `save` leaves -/

theorem windowAbove_windowBelow {nw : WindowCount} {w : BitVec 5} (hw : w.toNat < nw.val) :
    windowAbove nw (windowBelow nw w) = w := by
  apply BitVec.eq_of_toNat_eq
  rw [toNat_windowAbove, toNat_windowBelow, Nat.mod_add_mod, show w.toNat + nw.val - 1 + 1 = w.toNat + nw.val by omega,
    Nat.add_mod_right, Nat.mod_eq_of_lt hw]

/-- No register of the window below is a local of the window, nor an in of it where there are three windows: the names of the window
below stand in the sixteens of that window and of the window itself. -/
theorem regCell_windowBelow_ne {nw : WindowCount} {w : BitVec 5} {n : Reg} (hw : w.toNat < nw.val) (hn : 16 ≤ n.toNat)
    (hkept : n.toNat < 24 ∨ 3 ≤ nw.val) (m : Reg) : regCell nw (windowBelow nw w) m ≠ regCell nw w n := by
  intro h
  obtain ⟨hm8, hslot⟩ := (regCell_eq_windowed_iff ..).1 (h.trans (regCell_of_le nw w (by omega)))
  obtain ⟨hwindow, hplace⟩ := (windowSlot_eq_iff ..).1 hslot
  have hnw := nw.2
  have := n.isLt
  have := m.isLt
  have hup : (w.toNat + (n.toNat - 8) / 16) % nw.val = (w.toNat + nw.val - 1 + (1 + (n.toNat - 8) / 16)) % nw.val := by
    rw [← Nat.add_mod_right]
    congr 1
    omega
  rw [toNat_windowBelow, Nat.mod_add_mod, hup] at hwindow
  have hquot := eq_of_add_mod_eq (by omega) (by omega) hwindow
  omega

/-- `save` enters the window below and writes one register there. -/
theorem execSave_next {s t : State} {rs1 rd : Reg} {src2 : RegOrImm} (h : execSave rs1 src2 rd s = .next t) :
    t.cwp = windowBelow s.params.nwindows s.cwp ∧ t.params = s.params ∧
      ∃ v, WroteRegister (windowBelow s.params.nwindows s.cwp) rd v s t := by
  obtain ⟨-, rfl⟩ := (changeWindow_eq_next_iff ..).1 h
  obtain ⟨hcwp, hwrote, -, hframe⟩ :=
    changeWindow_state s (windowBelow s.params.nwindows s.cwp) rd (s.reg rs1 + s.op2 src2)
  exact ⟨hcwp, hframe.constants.params, _, hwrote⟩

/-- `restore` enters the window above and writes one register there. -/
theorem execRestore_next {s t : State} {rs1 rd : Reg} {src2 : RegOrImm} (h : execRestore rs1 src2 rd s = .next t) :
    t.cwp = windowAbove s.params.nwindows s.cwp ∧ t.params = s.params ∧
      ∃ v, WroteRegister (windowAbove s.params.nwindows s.cwp) rd v s t := by
  obtain ⟨-, rfl⟩ := (changeWindow_eq_next_iff ..).1 h
  obtain ⟨hcwp, hwrote, -, hframe⟩ :=
    changeWindow_state s (windowAbove s.params.nwindows s.cwp) rd (s.reg rs1 + s.op2 src2)
  exact ⟨hcwp, hframe.constants.params, _, hwrote⟩

/-- A register write leaves every other cell as it reads. -/
theorem WroteRegister.readCell_of_ne {w : BitVec 5} {n : Reg} {v : Word} {s t : State} (h : WroteRegister w n v s t) {c : RegCell}
    (hc : s.cellIn w n ≠ c) : t.readCell c = s.readCell c := by
  rw [h c, if_neg fun ⟨_, e⟩ => hc e.symm]

/-! ### Memory is its bytes -/

/-- In a list with rising addresses an entry's address reads its byte. -/
theorem lookupCell_of_mem {cells : List Host.Cell} (h : cells.Pairwise (fun c d => c.1 < d.1)) {c : Host.Cell} (hc : c ∈ cells) :
    lookupCell cells c.1 = c.2 := by
  induction cells with
  | nil => cases hc
  | cons d rest ih =>
    obtain ⟨hhead, hrest⟩ := List.pairwise_cons.1 h
    rw [lookupCell]
    rcases List.mem_cons.1 hc with rfl | hc
    · exact if_pos rfl
    · rw [if_neg (hhead c hc).ne', ih hrest hc]

/-- An address that does not read as an unlisted one is listed with its byte. -/
theorem mem_of_lookupCell_ne {cells : List Host.Cell} {x : Nat} (h : lookupCell cells x ≠ unlistedByte) :
    (x, lookupCell cells x) ∈ cells := by
  induction cells with
  | nil => exact absurd rfl h
  | cons d rest ih =>
    rw [lookupCell] at h ⊢
    by_cases hx : x = d.1
    · rw [if_pos hx, hx]
      exact List.mem_cons_self
    · rw [if_neg hx] at h ⊢
      exact List.mem_cons_of_mem _ (ih h)

/-- A memory in canonical form lists nothing that another with the same bytes does not. -/
theorem Memory.cells_subset {m m' : Memory} (h : m.wf) (hread : ∀ a, m.readByte a = m'.readByte a) : m.cells ⊆ m'.cells := by
  intro c hc
  obtain ⟨hlisted, hlt⟩ := h.2 c hc
  have hlookup : lookupCell m'.cells c.1 = c.2 := by
    have := hread (BitVec.ofNat 32 c.1)
    rw [Memory.readByte, Memory.readByte, BitVec.toNat_ofNat, Nat.mod_eq_of_lt hlt, lookupCell_of_mem h.1 hc] at this
    exact this.symm
  have hmem := mem_of_lookupCell_ne (hlookup.trans_ne hlisted)
  rwa [hlookup] at hmem

/-- Two memories in canonical form with the same bytes have the same entries, in the one rising order. -/
theorem Memory.ext_readByte {m m' : Memory} (h : m.wf) (h' : m'.wf) (hread : ∀ a, m.readByte a = m'.readByte a) : m = m' := by
  have hnodup : ∀ {n : Memory}, n.wf → n.cells.Nodup := fun hn => hn.1.imp fun hlt he => absurd (he ▸ hlt) (lt_irrefl _)
  have hperm : m.cells.Perm m'.cells := (List.perm_ext_iff_of_nodup (hnodup h) (hnodup h')).2 fun _ =>
    ⟨fun hc => Memory.cells_subset h hread hc, fun hc => Memory.cells_subset h' (fun a => (hread a).symm) hc⟩
  have hcells := hperm.eq_of_pairwise (fun c d _ _ hcd hdc => absurd hdc (lt_asymm hcd)) h.1 h'.1
  exact congrArg Memory.mk hcells

/-! ### The obligations -/

/-- Settles O20. -/
theorem registerZero : Obligations.RegisterZero := by
  refine fun s w n v => ⟨rfl, rfl, fun hn => ?_⟩
  show (s.setRegIn w n v).readCell ((s.setRegIn w n v).cellIn w n) = v
  rw [State.cellIn_setRegIn, State.readCell_setRegIn, if_pos ⟨rfl, hn⟩]

/-- Settles O21, one lemma for each clause. -/
theorem windowMapping : Obligations.WindowMapping := by
  refine fun s w n => ⟨fun h1 h8 => ?global, fun h8 => ?windowed, fun _ k hk => regCell_in_eq_out _ w hk,
    fun hw hlo hhi w' m hw' hne => regCell_local_ne _ hw hw' hne hlo hhi m⟩
  case global =>
    have hread := congrArg s.readCell (regCell_of_lt s.params.nwindows w h1 h8)
    exact (Vector.getElem?_eq_getElem (by omega)).trans (congrArg some hread.symm)
  case windowed =>
    have hread := congrArg s.readCell (regCell_of_le s.params.nwindows w h8)
    exact (Vector.getElem?_eq_getElem (windowSlot s.params.nwindows w.toNat n.toNat).isLt).trans (congrArg some hread.symm)

/-- Settles O22. -/
theorem registersOfWindowDistinct : Obligations.RegistersOfWindowDistinct := by
  refine fun s w n m v => ⟨fun h => regCell_injective _ _ h, fun hne => ?_⟩
  have hcell : s.cellIn w n ≠ s.cellIn w m := fun h => hne (regCell_injective _ _ h).symm
  show (s.setRegIn w n v).readCell ((s.setRegIn w n v).cellIn w m) = _
  rw [State.cellIn_setRegIn]
  exact (wroteRegister_setRegIn s w n v).readCell_of_ne hcell

/-- Settles O35: neither write meets the register, the one of `save` by its window and the one of `restore` by its number. -/
theorem restoreUndoesSave : Obligations.RestoreUndoesSave := by
  intro s t u rs1 rd rs1' rd' src2 src2' hcwp hsave hrestore
  obtain ⟨htcwp, htparams, _, hwrote⟩ := execSave_next hsave
  obtain ⟨hucwp, huparams, _, hwrote'⟩ := execRestore_next hrestore
  rw [htparams, htcwp, windowAbove_windowBelow hcwp] at hucwp hwrote'
  refine ⟨hucwp, fun n hn hkept hne => ?_⟩
  have hcell : u.cell n = s.cell n := by
    simp only [State.cell, State.cellIn, hucwp, huparams, htparams]
  have hsaved : t.readCell (s.cell n) = s.readCell (s.cell n) :=
    hwrote.readCell_of_ne (regCell_windowBelow_ne hcwp hn hkept rd)
  have hrestored : u.readCell (s.cell n) = t.readCell (s.cell n) := by
    refine hwrote'.readCell_of_ne fun h => hne ?_
    rw [State.cellIn, htparams] at h
    exact (regCell_injective _ _ h).symm
  calc u.reg n = u.readCell (s.cell n) := congrArg u.readCell hcell
    _ = t.readCell (s.cell n) := hrestored
    _ = s.reg n := hsaved

/-- Settles O58. -/
theorem memoryIsItsBytes : Obligations.MemoryIsItsBytes := fun _ _ => Memory.ext_readByte

/-- Settles O12: the WIM of the default launch is 2, and its NWINDOWS 8. -/
theorem launchHasInvariant : Obligations.LaunchHasInvariant := by
  refine ⟨fun l => State.inv_launch, State.inv_launch (by decide) (by decide) fun i hi => ?_⟩
  have hwim : Launch.default.wimInit = 2#32 := rfl
  have hbig : 2 < 2 ^ i := lt_of_lt_of_le (by decide : 2 < 2 ^ 8) (Nat.pow_le_pow_right (by decide) hi)
  rw [hwim]
  exact Nat.testBit_lt_two_pow hbig

end Sys2Proof.Machine

/-! PROOFS. Composed registers, the disabled floating unit, and the floating arithmetic instructions (spec 10_state.md R31 to R40,
47_floating_point.md R260 to R264). -/

namespace Sys2Proof.Machine

/-! ### Fields of a composed register -/

/-- The bits of a word are those of its slices. -/
theorem getLsbD_add_of_slice {n : Nat} {w : Word} {lo : Nat} {v : BitVec n} (h : w.extractLsb' lo n = v) {k : Nat} (hk : k < n) :
    w.getLsbD (lo + k) = v.getLsbD k := by
  rw [← h, BitVec.getLsbD_extractLsb']
  simp [hk]

/-- The condition codes stand in their slice, N the most significant (R31). -/
theorem Icc.bits_of_slice {w : Word} {lo : Nat} {i : Icc} (h : w.extractLsb' lo 4 = i.toBits) :
    w.getLsbD (lo + 3) = i.n ∧ w.getLsbD (lo + 2) = i.z ∧ w.getLsbD (lo + 1) = i.v ∧ w.getLsbD (lo + 0) = i.c := by
  rw [getLsbD_add_of_slice h (by decide), getLsbD_add_of_slice h (by decide), getLsbD_add_of_slice h (by decide),
    getLsbD_add_of_slice h (by decide)]
  clear h
  obtain ⟨n, z, v, c⟩ := i
  revert n z v c
  decide

/-- A set of exceptions stands in its slice, invalid the most significant (R38). -/
theorem IeeeFlags.bits_of_slice {w : Word} {lo : Nat} {e : IeeeFlags} (h : w.extractLsb' lo 5 = e.toBits) :
    w.getLsbD (lo + 4) = e.nv ∧ w.getLsbD (lo + 3) = e.of ∧ w.getLsbD (lo + 2) = e.uf ∧ w.getLsbD (lo + 1) = e.dz ∧
      w.getLsbD (lo + 0) = e.nx := by
  rw [getLsbD_add_of_slice h (by decide), getLsbD_add_of_slice h (by decide), getLsbD_add_of_slice h (by decide),
    getLsbD_add_of_slice h (by decide), getLsbD_add_of_slice h (by decide)]
  clear h
  obtain ⟨nv, of, uf, dz, nx⟩ := e
  revert nv of uf dz nx
  decide

/-- The slices of the PSR (R34). -/
theorem State.psrWord_slices (s : State) :
    s.psrWord.extractLsb' 28 4 = s.psr.impl ∧ s.psrWord.extractLsb' 24 4 = s.psr.ver ∧ s.psrWord.extractLsb' 20 4 = s.icc.toBits ∧
      s.psrWord.extractLsb' 14 6 = 0 ∧ s.psrWord.extractLsb' 13 1 = BitVec.ofBool s.psr.ec ∧
      s.psrWord.extractLsb' 12 1 = BitVec.ofBool s.psr.ef ∧ s.psrWord.extractLsb' 8 4 = s.psr.pil ∧
      s.psrWord.extractLsb' 7 1 = BitVec.ofBool s.psr.s ∧ s.psrWord.extractLsb' 6 1 = BitVec.ofBool s.psr.ps ∧
      s.psrWord.extractLsb' 5 1 = BitVec.ofBool s.psr.et ∧ s.psrWord.extractLsb' 0 5 = s.cwp := by
  simp [State.psrWord, BitVec.extractLsb'_or, extract_placed_same, extract_placed_disjoint]

/-- The slices of the TBR (R35). -/
theorem State.tbrWord_slices (s : State) :
    s.tbrWord.extractLsb' 12 20 = s.tbrBase ∧ s.tbrWord.extractLsb' 4 8 = s.tbrTt ∧ s.tbrWord.extractLsb' 0 4 = 0 := by
  simp [State.tbrWord, BitVec.extractLsb'_or, extract_placed_same, extract_placed_disjoint]

/-- The slices of the FSR (R38). -/
theorem State.fsrWord_slices (s : State) :
    s.fsrWord.extractLsb' 30 2 = s.fsr.rd.toBits ∧ s.fsrWord.extractLsb' 28 2 = 0 ∧
      s.fsrWord.extractLsb' 23 5 = s.fsr.tem.toBits ∧ s.fsrWord.extractLsb' 22 1 = BitVec.ofBool s.fsr.ns ∧
      s.fsrWord.extractLsb' 20 2 = 0 ∧ s.fsrWord.extractLsb' 17 3 = s.fsr.ver ∧ s.fsrWord.extractLsb' 14 3 = s.ftt.toBits ∧
      s.fsrWord.extractLsb' 13 1 = BitVec.ofBool !s.fq.isEmpty ∧ s.fsrWord.extractLsb' 12 1 = BitVec.ofBool false ∧
      s.fsrWord.extractLsb' 10 2 = s.fcc.toBits ∧ s.fsrWord.extractLsb' 5 5 = s.aexc.toBits ∧
      s.fsrWord.extractLsb' 0 5 = s.cexc.toBits := by
  simp [State.fsrWord, BitVec.extractLsb'_or, extract_placed_same, extract_placed_disjoint]

/-! ### The floating unit disabled or enabled -/

theorem withFpu_of_disabled {s : State} (h : s.psr.ef = false) (k : Result) : withFpu s k = .fault (.fpDisabled s.pc s.npc) :=
  if_neg (by simp [h])

theorem withFpu_of_enabled {s : State} (h : s.psr.ef = true) (k : Result) : withFpu s k = k := if_pos h

/-- A floating branch that no hidden bit refuses comes to the check of the unit (R290, R332). -/
theorem floatBranchTo_of_disabled {s : State} (h : s.psr.ef = false) (hdelay : s.inCondDelay = false) (hcmp : s.afterFcmp = false)
    (always annul taken : Bool) (disp22 : BitVec 22) :
    floatBranchTo s always annul taken disp22 = .fault (.fpDisabled s.pc s.npc) := by
  rw [floatBranchTo, withoutCouple, if_neg (by simp [hdelay]), if_neg (by simp [hcmp]), withFpu_of_disabled h]

/-- The outcome is not the trap fp_disabled. -/
def NotFpDisabled (r : Result) : Prop := ∀ e, r = .fault e → e.trap ≠ .fpDisabled

/-! Each operation keeps this from its continuation: only the check of the unit raises the trap, and it passes when EF = 1. -/

section
variable {s : State} {k : Result}

theorem NotFpDisabled.next (t : State) : NotFpDisabled (.next t) := fun _ h => nomatch h

theorem NotFpDisabled.refused (r : Refusal) : NotFpDisabled (.refused r) := fun _ h => nomatch h

theorem NotFpDisabled.raise {f : Word → Word → Fault} (h : (f s.pc s.npc).trap ≠ .fpDisabled) : NotFpDisabled (raise f s) :=
  fun _ he => (raise_eq_fault_iff ..).1 he ▸ h

theorem NotFpDisabled.withFpu (hef : s.psr.ef = true) (hk : NotFpDisabled k) : NotFpDisabled (withFpu s k) := by
  rwa [withFpu_of_enabled hef]

theorem NotFpDisabled.withEven {regs : List FReg} (hk : NotFpDisabled k) : NotFpDisabled (withEven s regs k) := by
  unfold Machine.withEven
  split
  · exact hk
  · exact .raise nofun

theorem NotFpDisabled.withEvenRd {i : Instr} {rd : Reg} (hk : NotFpDisabled k) : NotFpDisabled (withEvenRd s i rd k) := by
  unfold Machine.withEvenRd
  split
  · exact hk
  · exact .raise nofun

theorem NotFpDisabled.withoutCouple (hk : NotFpDisabled k) : NotFpDisabled (withoutCouple s k) := by
  unfold Machine.withoutCouple
  split
  · exact .refused _
  · exact hk

theorem NotFpDisabled.withDivisor {b : Word} (hk : NotFpDisabled k) : NotFpDisabled (withDivisor s b k) := by
  unfold Machine.withDivisor
  split
  · exact .raise nofun
  · exact hk

theorem NotFpDisabled.withAccess {ea : Word} {size : Nat} (hk : NotFpDisabled k) : NotFpDisabled (withAccess s ea size k) := by
  unfold Machine.withAccess
  split
  · exact .raise nofun
  · split
    · exact hk
    · exact .raise nofun

theorem NotFpDisabled.storeTo {ea : Word} {size : Nat} {m : Memory} : NotFpDisabled (storeTo s ea size m) := by
  refine .withAccess ?_
  split
  · exact .refused _
  · exact .next _

theorem NotFpDisabled.finishFpop {e : IeeeFlags} {t : State} : NotFpDisabled (finishFpop s e t) := by
  unfold Machine.finishFpop
  split
  · exact .raise nofun
  · exact .next _

theorem NotFpDisabled.changeWindow {new : BitVec 5} {trap : Word → Word → Fault} {rs1 rd : Reg} {src2 : RegOrImm}
    (h : (trap s.pc s.npc).trap ≠ .fpDisabled) : NotFpDisabled (changeWindow s new trap rs1 src2 rd) := by
  unfold Machine.changeWindow
  split
  · exact .raise h
  · exact .next _

theorem NotFpDisabled.jmpl {rs1 rd : Reg} {src2 : RegOrImm} : NotFpDisabled (execJmpl rs1 src2 rd s) := by
  refine .withoutCouple ?_
  split
  · exact .raise nofun
  · exact .next _

theorem NotFpDisabled.floatBranchTo (hef : s.psr.ef = true) {always annul taken : Bool} {disp22 : BitVec 22} :
    NotFpDisabled (floatBranchTo s always annul taken disp22) := by
  refine .withoutCouple ?_
  split
  · exact .refused _
  · exact .withFpu hef (.next _)

theorem NotFpDisabled.fpop (hef : s.psr.ef = true) {regs : List FReg} {e : IeeeFlags} {t : State} :
    NotFpDisabled (Machine.withFpu s (Machine.withEven s regs (Machine.finishFpop s e t))) :=
  .withFpu hef (.withEven .finishFpop)

end

/-- With EF = 1 no instruction raises fp_disabled (R324). -/
theorem exec_notFpDisabled {s : State} (hef : s.psr.ef = true) (i : Instr) : NotFpDisabled (exec i s) := by
  cases i with
  | add | sub | and | andn | or | orn | xor | xnor | sll | srl | sra | sethi | nop | umul | smul => exact .next _
  | addcc | subcc | andcc | andncc | orcc | orncc | xorcc | xnorcc | umulcc | smulcc => exact .next _
  | udiv | sdiv | udivcc | sdivcc => exact .withDivisor (.next _)
  | save | restore => exact .changeWindow nofun
  | call => exact .withoutCouple (.next _)
  | jmpl => exact .jmpl
  | ba | bn | bne | be | bg | ble | bge | bl | bgu | bleu | bcc | bcs | bpos | bneg | bvc | bvs => exact .withoutCouple (.next _)
  | fba | fbn | fbu | fbg | fbug | fbl | fbul | fblg | fbne | fbe | fbue | fbge | fbuge | fble | fbule | fbo =>
    exact .floatBranchTo hef
  | ldsb | ldsh | ldub | lduh | ld => exact .withAccess (.next _)
  | ldd => exact .withEvenRd (.withAccess (.next _))
  | stb | sth | st => exact .storeTo
  | std => exact .withEvenRd .storeTo
  | stdf => exact .withFpu hef (.withEven .storeTo)
  | lddf => exact .withFpu hef (.withEven (.withAccess (.next _)))
  | faddd | fsubd | fmuld | fdivd | fmovd | fnegd | fabsd | fitod | fdtoi | fcmpd => exact .fpop hef

/-! ### The floating arithmetic instructions -/

/-- A word under `op3 = 0x34` decodes by the `opf` map of FPop1 (R87, R91). -/
theorem decode_wordFp_fpop1 (opf : BitVec 9) (rs1 rs2 rd : FReg) :
    decode (wordFp 0x34 opf rs1 rs2 rd) = decodeFp (fpop1Entry opf) (wordFp 0x34 opf rs1 rs2 rd) := by
  have hentry : arithmeticEntry 0x34 = .fpOperate fpop1Entry := rfl
  rw [decode, fieldOp_wordFp]
  show decodeFormat3 (arithmeticEntry (fieldOp3 _)) _ = _
  rw [fieldOp3_wordFp, hentry, decodeFormat3, fieldOpf_wordFp]

/-- The encoding of an operate instruction with two operands that stands in the FPop1 map. -/
theorem hasOpf_of_binary {mk : FReg → FReg → FReg → Instr} {opf : BitVec 9} (hentry : fpop1Entry opf = .binary mk) {rs1 rs2 rd : FReg}
    (hencode : encode (mk rs1 rs2 rd) = wordFp 0x34 opf rs1 rs2 rd) : HasOpf (mk rs1 rs2 rd) 0x34 opf := by
  refine ⟨⟨?_, ?_, ?_⟩, ?_⟩ <;> rw [hencode]
  · exact fieldOp_wordFp ..
  · exact fieldOp3_wordFp ..
  · rw [decode_wordFp_fpop1, hentry, decodeFp, fieldRs1_wordFp, fieldRs2_wordFp, fieldRd_wordFp]
  · exact fieldOpf_wordFp ..

section
variable {s : State} {i : Instr} {op : FpOp} {rs1 rs2 rd : FReg} (hexec : exec i s = fpBinary op rs1 rs2 rd s)
include hexec

/-- An odd register of a double operand faults (R260(b)). -/
theorem oddFaults_of_fpBinary (hef : s.psr.ef = true) : OddFaults [rs1, rs2, rd] i s := fun hodd => by
  rw [hexec, fpBinary, withFpu_of_enabled hef, withEven_of_odd _ hodd]

/-- Under the unit as the spec fixes it, the IEEE result and its exceptions are written (R40, R260 to R264). -/
theorem answers_of_fpBinary (hfpu : s.standardFpu) (hrs1 : rs1.toNat % 2 = 0) (hrs2 : rs2.toNat % 2 = 0) (hrd : rd.toNat % 2 = 0) :
    Answers i s fun t =>
      WroteDouble rd (ieeeArith .nearestEven op (s.dreg rs1) (s.dreg rs2)).value s t ∧
        RaisedFlags (ieeeArith .nearestEven op (s.dreg rs1) (s.dreg rs2)).flags s t ∧
        Advances s t ∧ OnlyChanged [.floats, .fpStatus] s t := by
  have heven : ∀ n ∈ [rs1, rs2, rd], isEven n = true := by simp [isEven_eq, hrs1, hrs2, hrd]
  have harith : fpArith s.fsr op (s.dreg rs1) (s.dreg rs2) = ieeeArith .nearestEven op (s.dreg rs1) (s.dreg rs2) := by
    rw [fpArith, hfpu.standard, hfpu.nearest]
    rfl
  rw [← harith]
  exact ⟨_, hexec.trans ((fpBinary_eq_next_iff ..).2 ⟨hfpu.enabled, heven, by rw [hfpu.untrapped, IeeeFlags.meets_none], rfl⟩),
    fpop_double_state ..⟩

end

/-! ### The obligations -/

/-- Settles O57: the slices of the three words, and the single bits from them. -/
theorem composedRegisterLayouts : Obligations.ComposedRegisterLayouts := by
  refine fun s => ⟨?psr, s.tbrWord_slices, ?fsr⟩
  case psr =>
    obtain ⟨himpl, hver, hicc, hzero, hec, hef, hpil, hs, hps, het, hcwp⟩ := s.psrWord_slices
    obtain ⟨hn, hz, hv, hc⟩ := Icc.bits_of_slice hicc
    exact ⟨himpl, hver, hn, hz, hv, hc, hzero, getLsbD_of_extract _ _ _ hec, getLsbD_of_extract _ _ _ hef, hpil,
      getLsbD_of_extract _ _ _ hs, getLsbD_of_extract _ _ _ hps, getLsbD_of_extract _ _ _ het, hcwp⟩
  case fsr =>
    obtain ⟨hrd, hzero, htem, hns, hzero', hver, hftt, hqne, hzero'', hfcc, haexc, hcexc⟩ := s.fsrWord_slices
    obtain ⟨htnv, htof, htuf, htdz, htnx⟩ := IeeeFlags.bits_of_slice htem
    obtain ⟨hanv, haof, hauf, hadz, hanx⟩ := IeeeFlags.bits_of_slice haexc
    obtain ⟨hcnv, hcof, hcuf, hcdz, hcnx⟩ := IeeeFlags.bits_of_slice hcexc
    exact ⟨hrd, hzero, htnv, htof, htuf, htdz, htnx, getLsbD_of_extract _ _ _ hns, hzero', hver, hftt,
      getLsbD_of_extract _ _ _ hqne, getLsbD_of_extract _ _ _ hzero'', hfcc, hanv, haof, hauf, hadz, hanx, hcnv, hcof, hcuf, hcdz, hcnx⟩

/-- Settles O56: the check of the unit comes before every other check of these instructions, and only it raises the trap. -/
theorem disabledFpuTraps : Obligations.DisabledFpuTraps := by
  refine fun s hef => ⟨?binary, ?unary, fun _ _ _ => ⟨withFpu_of_disabled hef _, withFpu_of_disabled hef _⟩, ?branches, rfl,
    fun t ht i pc npc h => exec_notFpDisabled ht i _ h rfl⟩
  case binary =>
    intro mk hmk rs1 rs2 rd
    simp only [List.mem_cons, List.not_mem_nil, or_false] at hmk
    rcases hmk with rfl | rfl | rfl | rfl <;> exact withFpu_of_disabled hef _
  case unary =>
    intro mk hmk rs2 rd
    simp only [List.mem_cons, List.not_mem_nil, or_false] at hmk
    rcases hmk with rfl | rfl | rfl | rfl | rfl | rfl <;> exact withFpu_of_disabled hef _
  case branches =>
    intro hdelay hcmp mk hmk annul disp22
    simp only [List.mem_cons, List.not_mem_nil, or_false] at hmk
    rcases hmk with rfl | rfl | rfl | rfl | rfl | rfl | rfl | rfl | rfl | rfl | rfl | rfl | rfl | rfl | rfl | rfl <;>
      exact floatBranchTo_of_disabled hef hdelay hcmp ..

/-- Settles O48: the four instructions are one operation with four operators. -/
theorem fpArithmeticResults : Obligations.FpArithmeticResults := fun _ _ _ _ =>
  ⟨hasOpf_of_binary rfl rfl, oddFaults_of_fpBinary rfl, answers_of_fpBinary rfl,
    hasOpf_of_binary rfl rfl, oddFaults_of_fpBinary rfl, answers_of_fpBinary rfl,
    hasOpf_of_binary rfl rfl, oddFaults_of_fpBinary rfl, answers_of_fpBinary rfl,
    hasOpf_of_binary rfl rfl, oddFaults_of_fpBinary rfl, answers_of_fpBinary rfl⟩

end Sys2Proof.Machine

/-! PROOFS. Rounding to nearest (spec 47_floating_point.md R273, R274): the finite doubles in order of magnitude, the rounded magnitude as
the nearest of them, and the four operations. -/

namespace Sys2Proof.Machine

/-! ### Doubles as bit numbers

Bits 62:0 of a double are a number, and the finite doubles stand in it in order of magnitude. The magnitude is defined for every number, as
if the exponent were unbounded, so that rounding can be stated before overflow. -/

/-- The magnitude, in units of 2^-1074, that bits 62:0 stand for. -/
def bitsMag (b : Nat) : Nat := if b / 2 ^ 52 = 0 then b % 2 ^ 52 else (2 ^ 52 + b % 2 ^ 52) * 2 ^ (b / 2 ^ 52 - 1)

/-- Bits 62:0 of a double. -/
def magBits (d : Dword) : Nat := d.toNat % 2 ^ 63

theorem dExp_eq (d : Dword) : dExp d = magBits d / 2 ^ 52 := by
  rw [dExp, magBits, BitVec.extractLsb'_toNat, Nat.shiftRight_eq_div_pow]
  omega

theorem dFrac_eq (d : Dword) : dFrac d = magBits d % 2 ^ 52 := by
  rw [dFrac, magBits, BitVec.extractLsb'_toNat, Nat.shiftRight_eq_div_pow]
  omega

theorem dMag_eq (d : Dword) : dMag d = bitsMag (magBits d) := by
  rw [dMag, bitsMag, dExp_eq, dFrac_eq]

theorem dExp_lt_iff (d : Dword) : dExp d < 2047 ↔ magBits d < infBits := by
  rw [dExp_eq, infBits]
  omega

theorem toNat_withSign (neg : Bool) {b : Nat} (hb : b < 2 ^ 63) : (withSign neg b).toNat = (if neg then 2 ^ 63 else 0) + b := by
  rw [withSign, BitVec.toNat_ofNat]
  split <;> omega

theorem magBits_withSign (neg : Bool) {b : Nat} (hb : b < 2 ^ 63) : magBits (withSign neg b) = b := by
  rw [magBits, toNat_withSign neg hb]
  split <;> omega

theorem dSign_eq (d : Dword) : dSign d = decide (2 ^ 63 ≤ d.toNat) := by
  rw [dSign, BitVec.getLsbD, Nat.testBit_eq_decide_div_mod_eq]
  have := d.isLt
  exact decide_eq_decide.2 (by omega)

theorem dSign_withSign (neg : Bool) {b : Nat} (hb : b < 2 ^ 63) : dSign (withSign neg b) = neg := by
  rw [dSign_eq, toNat_withSign neg hb]
  cases neg
  · simpa using hb
  · simp

/-- The last bit of a double is the parity of its bit number. -/
theorem getLsbD_zero_eq (d : Dword) : d.getLsbD 0 = decide (magBits d % 2 = 1) := by
  rw [BitVec.getLsbD, Nat.testBit_zero, magBits]
  exact decide_eq_decide.2 (by omega)

/-- `n` last places of weight `2^L`, written as exponent and fraction by one addition, stand for `n * 2^L`: the carry into the exponent when
`n` reaches 2^53 included. -/
theorem bitsMag_lastPlace {L n : Nat} (hn : n ≤ 2 ^ 53) (hnormal : L = 0 ∨ 2 ^ 52 ≤ n) : bitsMag (L * 2 ^ 52 + n) = n * 2 ^ L := by
  have hcases : (L = 0 ∧ n < 2 ^ 52) ∨ (2 ^ 52 ≤ n ∧ n < 2 ^ 53) ∨ n = 2 ^ 53 := by omega
  rcases hcases with ⟨rfl, h⟩ | ⟨h1, h2⟩ | rfl
  · rw [bitsMag, if_pos (by omega)]
    omega
  · have hquot : (L * 2 ^ 52 + n) / 2 ^ 52 = L + 1 := by omega
    have hrem : (L * 2 ^ 52 + n) % 2 ^ 52 = n - 2 ^ 52 := by omega
    rw [bitsMag, if_neg (by omega), hquot, hrem, Nat.add_sub_cancel' h1, Nat.add_sub_cancel]
  · have hquot : (L * 2 ^ 52 + 2 ^ 53) / 2 ^ 52 = L + 2 := by omega
    have hrem : (L * 2 ^ 52 + 2 ^ 53) % 2 ^ 52 = 0 := by omega
    rw [bitsMag, if_neg (by omega), hquot, hrem, show L + 2 - 1 = L + 1 by omega, pow_succ 2 L]
    ring

/-- Every bit number is `n` last places of weight `2^L`, normal or with the least weight. -/
theorem exists_lastPlace (b : Nat) : ∃ L n, b = L * 2 ^ 52 + n ∧ n < 2 ^ 53 ∧ (L = 0 ∨ 2 ^ 52 ≤ n) := by
  refine ⟨b / 2 ^ 52 - 1, b - (b / 2 ^ 52 - 1) * 2 ^ 52, ?_, ?_, ?_⟩ <;> omega

/-- The next bit number is the next larger magnitude: finite doubles stand in order. -/
theorem bitsMag_strictMono : StrictMono bitsMag := by
  refine strictMono_nat_of_lt_succ fun b => ?_
  obtain ⟨L, n, rfl, hn, hnormal⟩ := exists_lastPlace b
  rw [bitsMag_lastPlace hn.le hnormal, add_assoc, bitsMag_lastPlace hn (by omega)]
  exact Nat.mul_lt_mul_of_pos_right (Nat.lt_succ_self n) (by positivity)

@[simp] theorem bitsMag_zero : bitsMag 0 = 0 := by
  simp [bitsMag]

/-! ### The rounded magnitude

`num / den` lies between two neighbours: `lastPlaces num den` last places, and one more. Rounding takes one of the two. -/

/-- What a last place weighs, beside the numerator. -/
def placeWeight (num den : Nat) : Nat := den * 2 ^ lastPlace num den

/-- The exact magnitude in last places, rounded down. -/
def lastPlaces (num den : Nat) : Nat := num / placeWeight num den

/-- The bit number of the lower neighbour. -/
def lowerBits (num den : Nat) : Nat := lastPlace num den * 2 ^ 52 + lastPlaces num den

theorem placeWeight_pos (num : Nat) {den : Nat} (hden : 0 < den) : 0 < placeWeight num den := by
  unfold placeWeight
  positivity

/-- The significand has at most 53 bits, and 53 where the last place weighs more than one unit. -/
theorem lastPlaces_bounds (num den : Nat) :
    lastPlaces num den < 2 ^ 53 ∧ (lastPlace num den = 0 ∨ 2 ^ 52 ≤ lastPlaces num den) := by
  rw [lastPlaces, placeWeight, ← Nat.div_div_eq_div_mul, lastPlace]
  generalize num / den = q
  constructor
  · rw [Nat.div_lt_iff_lt_mul (by positivity), ← pow_add]
    exact Nat.lt_log2_self.trans_le (Nat.pow_le_pow_right (by decide) (by omega))
  · rcases Nat.eq_zero_or_pos (Nat.log2 q - 52) with hL | hL
    · exact .inl hL
    · have hq : q ≠ 0 := by
        rintro rfl
        simp at hL
      refine .inr ((Nat.le_div_iff_mul_le (by positivity)).2 ?_)
      rw [← pow_add, show 52 + (Nat.log2 q - 52) = Nat.log2 q by omega]
      exact Nat.log2_self_le hq

/-- What the two neighbours weigh. -/
theorem bitsMag_neighbours (num den : Nat) :
    bitsMag (lowerBits num den) * den = placeWeight num den * lastPlaces num den ∧
      bitsMag (lowerBits num den + 1) * den = placeWeight num den * lastPlaces num den + placeWeight num den := by
  obtain ⟨hlt, hnormal⟩ := lastPlaces_bounds num den
  rw [lowerBits, bitsMag_lastPlace hlt.le hnormal, Nat.add_assoc,
    bitsMag_lastPlace (n := lastPlaces num den + 1) hlt (hnormal.imp_right Nat.le_succ_of_le), placeWeight]
  constructor <;> ring

/-- Every other magnitude lies on one side of both neighbours. -/
theorem bitsMag_outside (num den b : Nat) :
    bitsMag b * den ≤ placeWeight num den * lastPlaces num den ∨
      placeWeight num den * lastPlaces num den + placeWeight num den ≤ bitsMag b * den := by
  obtain ⟨hlow, hhigh⟩ := bitsMag_neighbours num den
  rw [← hhigh, ← hlow]
  rcases Nat.lt_or_ge (lowerBits num den) b with h | h
  · exact .inr (Nat.mul_le_mul_right _ (bitsMag_strictMono.monotone h))
  · exact .inl (Nat.mul_le_mul_right _ (bitsMag_strictMono.monotone h))

/-- Which neighbour rounding to nearest takes: the lower one below the middle, the upper one above it, the even one at it. -/
theorem roundedBits_cases (neg : Bool) (num den : Nat) :
    (roundedBits .nearestEven neg num den = lowerBits num den ∧
      (2 * (num % placeWeight num den) < placeWeight num den ∨
        (2 * (num % placeWeight num den) = placeWeight num den ∧ lastPlaces num den % 2 = 0))) ∨
    (roundedBits .nearestEven neg num den = lowerBits num den + 1 ∧
      (placeWeight num den < 2 * (num % placeWeight num den) ∨
        (2 * (num % placeWeight num den) = placeWeight num den ∧ lastPlaces num den % 2 = 1))) := by
  have hup : roundsUp .nearestEven neg (lastPlaces num den) (num % placeWeight num den) (placeWeight num den) = true ↔
      placeWeight num den < 2 * (num % placeWeight num den) ∨
        (2 * (num % placeWeight num den) = placeWeight num den ∧ lastPlaces num den % 2 = 1) := by
    simp [roundsUp]
  have hbits : roundedBits .nearestEven neg num den = lastPlace num den * 2 ^ 52 +
      if roundsUp .nearestEven neg (lastPlaces num den) (num % placeWeight num den) (placeWeight num den) = true then
        lastPlaces num den + 1 else lastPlaces num den := rfl
  rw [hbits]
  split
  · next h => exact .inr ⟨(Nat.add_assoc ..).symm, hup.1 h⟩
  · next h =>
    have := mt hup.2 h
    exact .inl ⟨rfl, by omega⟩

/-- The distance of a bit number's magnitude from `num / den`, times `den`. -/
def bitsDist (num den b : Nat) : Nat := ((bitsMag b * den : Nat) - num : Int).natAbs

/-- No bit number is nearer to `num / den` than the rounded one, and where another magnitude is as near, the rounded one is even. -/
theorem roundedBits_nearest (neg : Bool) (num : Nat) {den : Nat} (hden : 0 < den) (b : Nat) :
    bitsDist num den (roundedBits .nearestEven neg num den) ≤ bitsDist num den b ∧
      (bitsDist num den (roundedBits .nearestEven neg num den) = bitsDist num den b →
        bitsMag b ≠ bitsMag (roundedBits .nearestEven neg num den) → roundedBits .nearestEven neg num den % 2 = 0) := by
  obtain ⟨hlow, hhigh⟩ := bitsMag_neighbours num den
  have hsplit : placeWeight num den * lastPlaces num den + num % placeWeight num den = num := Nat.div_add_mod ..
  have hrem := Nat.mod_lt num (placeWeight_pos num hden)
  have hside := bitsMag_outside num den b
  have hne : ∀ {x y : Nat}, bitsMag x ≠ bitsMag y → bitsMag x * den ≠ bitsMag y * den := fun h he =>
    h (Nat.eq_of_mul_eq_mul_right hden he)
  have hparity : lowerBits num den % 2 = lastPlaces num den % 2 := by
    rw [lowerBits]
    omega
  unfold bitsDist
  rcases roundedBits_cases neg num den with ⟨hR, hmid⟩ | ⟨hR, hmid⟩ <;> rw [hR]
  · refine ⟨by omega, fun htie hdiff => ?_⟩
    have := hne hdiff
    omega
  · refine ⟨by omega, fun htie hdiff => ?_⟩
    have := hne hdiff
    omega

/-- Rounding is exact when nothing is left below the last place, and only then. -/
theorem bitsMag_roundedBits_eq_iff (neg : Bool) (num : Nat) {den : Nat} (hden : 0 < den) :
    bitsMag (roundedBits .nearestEven neg num den) * den = num ↔ isInexact num den = false := by
  obtain ⟨hlow, hhigh⟩ := bitsMag_neighbours num den
  have hsplit : placeWeight num den * lastPlaces num den + num % placeWeight num den = num := Nat.div_add_mod ..
  have hrem := Nat.mod_lt num (placeWeight_pos num hden)
  have hinexact : isInexact num den = decide (num % placeWeight num den ≠ 0) := rfl
  rw [hinexact, decide_eq_false_iff_not, not_not]
  rcases roundedBits_cases neg num den with ⟨hR, hmid⟩ | ⟨hR, hmid⟩ <;> rw [hR] <;> omega

/-- Half a last place above the largest finite double, in units: the overflow threshold of `IsNearestEven`. -/
def overflowThreshold : Nat := (2 ^ 54 - 1) * 2 ^ 2044

theorem overflowThreshold_eq : overflowThreshold = (2 ^ 54 - 1) * 2 ^ 2044 := rfl

theorem le_overflowThreshold : 2 ^ 54 - 1 ≤ overflowThreshold := by
  have hpos : 0 < 2 ^ 2044 := by positivity
  rw [overflowThreshold_eq]
  generalize 2 ^ 2044 = K at *
  omega

/-- The threshold lies halfway between the largest finite magnitude and the next. -/
theorem bitsMag_infBits :
    2 * bitsMag (infBits - 1) + 2 ^ 2045 = 2 * overflowThreshold ∧ 2 * bitsMag infBits = 2 * overflowThreshold + 2 ^ 2045 := by
  rw [show infBits - 1 = 2045 * 2 ^ 52 + (2 ^ 53 - 1) by decide, show infBits = 2045 * 2 ^ 52 + 2 ^ 53 by decide,
    bitsMag_lastPlace (by decide) (by decide), bitsMag_lastPlace (by decide) (by decide), overflowThreshold_eq, pow_succ 2 2044]
  generalize 2 ^ 2044 = K
  omega

/-- The rounded magnitude reaches infinity from half a last place above the largest finite double. -/
theorem infBits_le_roundedBits_iff (neg : Bool) (num : Nat) {den : Nat} (hden : 0 < den) :
    infBits ≤ roundedBits .nearestEven neg num den ↔ overflowThreshold * den ≤ num := by
  obtain ⟨hlargest, hinf⟩ := bitsMag_infBits
  have hpos : 0 < 2 ^ 2045 := by positivity
  generalize 2 ^ 2045 = K at *
  replace hlargest : 2 * (bitsMag (infBits - 1) * den) + K * den = 2 * (overflowThreshold * den) := by
    linear_combination den * hlargest
  replace hinf : 2 * (bitsMag infBits * den) = 2 * (overflowThreshold * den) + K * den := by
    linear_combination den * hinf
  replace hpos : 0 < K * den := Nat.mul_pos hpos hden
  have hmono := fun {x y} (h : x ≤ y) => Nat.mul_le_mul_right den (bitsMag_strictMono.monotone h)
  constructor
  · intro h
    obtain ⟨hnear, -⟩ := roundedBits_nearest neg num hden (infBits - 1)
    have := hmono h
    unfold bitsDist at hnear
    omega
  · intro h
    by_contra hlt
    obtain ⟨hnear, heven⟩ := roundedBits_nearest neg num hden infBits
    have hle := hmono (show roundedBits .nearestEven neg num den ≤ infBits - 1 by omega)
    have hne : bitsMag infBits ≠ bitsMag (roundedBits .nearestEven neg num den) := fun he => hlt (bitsMag_strictMono.injective he).le
    unfold bitsDist at hnear heven
    have heven := heven (by omega) hne
    have hmag : bitsMag (roundedBits .nearestEven neg num den) * den = bitsMag (infBits - 1) * den := by omega
    have hbits := bitsMag_strictMono.injective (Nat.eq_of_mul_eq_mul_right hden hmag)
    have hodd : (infBits - 1) % 2 = 1 := by decide
    omega

/-! ### The rounded result with its sign -/

/-- `x` with a sign. -/
def signed (neg : Bool) (x : Nat) : Int := if neg then -(x : Int) else x

theorem dVal_eq_signed (d : Dword) : dVal d = signed (dSign d) (dMag d) := rfl

@[simp] theorem natAbs_signed (neg : Bool) (x : Nat) : (signed neg x).natAbs = x := by
  cases neg <;> simp [signed]

theorem signed_mul (neg : Bool) (x y : Nat) : signed neg x * y = signed neg (x * y) := by
  cases neg <;> simp [signed]

theorem signed_lt_zero_iff (neg : Bool) {x : Nat} (hx : 0 < x) : signed neg x < 0 ↔ neg = true := by
  cases neg <;> simp [signed]
  omega

theorem signed_inj {neg : Bool} {x y : Nat} : signed neg x = signed neg y ↔ x = y := by
  cases neg <;> simp [signed]

/-- Between magnitudes of one sign the distance is that of the magnitudes; between two signs it is their sum. -/
theorem natAbs_signed_sub_self (neg : Bool) (x y : Nat) : (signed neg x - signed neg y).natAbs = ((x : Int) - y).natAbs := by
  cases neg <;> simp [signed]
  omega

theorem natAbs_signed_sub_not (neg : Bool) (x y : Nat) : (signed (!neg) x - signed neg y).natAbs = x + y := by
  cases neg <;> simp [signed] <;> omega

theorem dVal_withSign (neg : Bool) {b : Nat} (hb : b < 2 ^ 63) : dVal (withSign neg b) = signed neg (bitsMag b) := by
  rw [dVal_eq_signed, dSign_withSign neg hb, dMag_eq, magBits_withSign neg hb]

theorem dExp_withSign_lt (neg : Bool) {b : Nat} (hb : b < infBits) : dExp (withSign neg b) < 2047 := by
  rw [dExp_lt_iff, magBits_withSign neg (hb.trans (by decide))]
  exact hb

theorem isInf_of_dExp_lt {d : Dword} (h : dExp d < 2047) : isInf d = false := by
  simp [isInf, h.ne]

theorem isNaN_of_dExp_lt {d : Dword} (h : dExp d < 2047) : isNaN d = false := by
  simp [isNaN, h.ne]

theorem isInf_infinity (neg : Bool) : isInf (infinity neg) = true := by
  revert neg
  decide

/-- The two branches of rounding to nearest (R273). -/
theorem roundResult_of_le {neg : Bool} {num den : Nat} (h : infBits ≤ roundedBits .nearestEven neg num den) :
    roundResult .nearestEven neg num den = ⟨infinity neg, ⟨false, true, false, false, true⟩⟩ := if_pos h

theorem roundResult_of_lt {neg : Bool} {num den : Nat} (h : roundedBits .nearestEven neg num den < infBits) :
    roundResult .nearestEven neg num den = ⟨withSign neg (roundedBits .nearestEven neg num den),
      ⟨false, false, isInexact num den && isTiny .nearestEven neg num den, false, isInexact num den⟩⟩ := if_neg h.not_ge

/-- A rounded result has the sign it was given. -/
theorem dSign_roundResult (neg : Bool) (num den : Nat) : dSign (roundResult .nearestEven neg num den).value = neg := by
  rcases Nat.lt_or_ge (roundedBits .nearestEven neg num den) infBits with h | h
  · rw [roundResult_of_lt h]
    exact dSign_withSign neg (h.trans (by decide))
  · rw [roundResult_of_le h]
    exact dSign_withSign neg (by decide)

/-- The nearest bit number with the sign of the exact value is the nearest double: one of the other sign is no nearer than zero. -/
theorem withSign_nearest (neg : Bool) (num : Nat) {den : Nat} (hden : 0 < den) (hR : roundedBits .nearestEven neg num den < infBits)
    {r : Dword} (hr : r = withSign neg (roundedBits .nearestEven neg num den)) (d : Dword) :
    (dVal r * den - signed neg num).natAbs ≤ (dVal d * den - signed neg num).natAbs ∧
      ((dVal r * den - signed neg num).natAbs = (dVal d * den - signed neg num).natAbs → dVal d ≠ dVal r → r.getLsbD 0 = false) := by
  subst hr
  have hbig := hR.trans (by decide : infBits < 2 ^ 63)
  have heven : (withSign neg (roundedBits .nearestEven neg num den)).getLsbD 0 = false ↔
      roundedBits .nearestEven neg num den % 2 = 0 := by
    rw [getLsbD_zero_eq, magBits_withSign neg hbig, decide_eq_false_iff_not]
    omega
  have hdist : ∀ b, (signed neg (bitsMag b * den) - signed neg num).natAbs = bitsDist num den b := fun b =>
    natAbs_signed_sub_self ..
  rw [heven, dVal_withSign neg hbig, dVal_eq_signed d, signed_mul, signed_mul, hdist, dMag_eq d]
  by_cases hsign : dSign d = neg
  · obtain ⟨hnear, htie⟩ := roundedBits_nearest neg num hden (magBits d)
    rw [hsign, hdist]
    exact ⟨hnear, fun he hne => htie he fun hm => hne (by rw [hm])⟩
  · obtain ⟨hnear, htie⟩ := roundedBits_nearest neg num hden 0
    have hzero : bitsDist num den 0 = num := by simp [bitsDist]
    rw [hzero] at hnear htie
    have hsign : dSign d = !neg := Bool.eq_not.2 hsign
    rw [hsign, natAbs_signed_sub_not]
    refine ⟨by omega, fun he hne => htie (by omega) fun hm => hne ?_⟩
    have hmul : bitsMag (magBits d) * den = 0 := by omega
    have hmag : bitsMag (magBits d) = 0 := by simpa [hden.ne'] using hmul
    rw [← hm, hmag, bitsMag_zero]
    cases neg <;> rfl

/-! The two cases of `IsNearestEven`, below the overflow threshold and from it up. -/

theorem isNearestEven_iff_of_lt {r : Dword} {num : Int} {den : Nat} (h : num.natAbs < overflowThreshold * den) :
    IsNearestEven r num den ↔
      dExp r < 2047 ∧
        ∀ d : Dword, dExp d < 2047 →
          (dVal r * den - num).natAbs ≤ (dVal d * den - num).natAbs ∧
            ((dVal r * den - num).natAbs = (dVal d * den - num).natAbs → dVal d ≠ dVal r → r.getLsbD 0 = false) := by
  rw [IsNearestEven, ← overflowThreshold_eq, if_pos h]

theorem isNearestEven_iff_of_le {r : Dword} {num : Int} {den : Nat} (h : overflowThreshold * den ≤ num.natAbs) :
    IsNearestEven r num den ↔ r = infinity (decide (num < 0)) := by
  rw [IsNearestEven, ← overflowThreshold_eq, if_neg (Nat.not_lt.2 h)]

/-- A magnitude that rounding to 53 bits leaves below the least normal number is tiny, before and after rounding. -/
theorem isTiny_of_lt (neg : Bool) {num den : Nat} (h : 4 * num < (2 ^ 54 - 1) * den) : isTiny .nearestEven neg num den = true := by
  have hsplit := Nat.div_add_mod (2 * num) den
  have hround : roundQuotient .nearestEven neg (2 * num) den < 2 ^ 53 := by
    by_contra hge
    rw [roundQuotient] at hge
    split at hge
    · next hup =>
      have hmid : den ≤ 2 * (2 * num % den) := by
        simp only [roundsUp, Bool.or_eq_true, Bool.and_eq_true, decide_eq_true_eq] at hup
        omega
      have := Nat.mul_le_mul_left den (show 2 ^ 53 - 1 ≤ 2 * num / den by omega)
      omega
    · have := Nat.mul_le_mul_left den (show 2 ^ 53 ≤ 2 * num / den by omega)
      omega
  simp only [isTiny, hround, decide_true, Bool.true_or, Bool.and_true, decide_eq_true_eq]
  omega

/-- A magnitude from the least normal number up is not tiny. -/
theorem isTiny_of_le (neg : Bool) {num den : Nat} (h : 2 ^ 52 * den ≤ num) : isTiny .nearestEven neg num den = false := by
  rw [isTiny, decide_eq_false (by omega), Bool.false_and]

/-- Below the threshold the rounded double is finite and the nearest; it is inexact when a remainder was rounded away (R273). -/
theorem rounded_of_lt (neg : Bool) (num : Nat) {den : Nat} (hden : 0 < den) (hR : roundedBits .nearestEven neg num den < infBits) :
    IsNearestEven (roundResult .nearestEven neg num den).value (signed neg num) den ∧
      RaisesFor (roundResult .nearestEven neg num den) (signed neg num) den := by
  have hexp := dExp_withSign_lt neg hR
  have hfinite := isInf_of_dExp_lt hexp
  have hexact := bitsMag_roundedBits_eq_iff neg num hden
  have hsmall := Nat.not_le.1 (mt (infBits_le_roundedBits_iff neg num hden).2 hR.not_ge)
  rw [roundResult_of_lt hR, isNearestEven_iff_of_lt (by rwa [natAbs_signed])]
  refine ⟨⟨hexp, fun d _ => withSign_nearest neg num hden hR rfl d⟩, ?_⟩
  exact
    { nv := rfl
      dz := rfl
      of := hfinite.symm
      nx := by
        rw [hfinite, dVal_withSign neg (hR.trans (by decide)), signed_mul, Ne, signed_inj, hexact]
        simp
      uf_inexact := fun h => (Bool.and_eq_true_iff.1 h).1
      uf_normal := fun h => by
        rw [natAbs_signed] at h
        simp [isTiny_of_le neg h]
      uf_tiny := fun h => by
        rw [natAbs_signed] at h
        simp [isTiny_of_lt neg h] }

/-- From the threshold up the result is an infinity, and overflow and inexact are raised (R273). -/
theorem rounded_of_le (neg : Bool) {num den : Nat} (hnum : 0 < num) (hden : 0 < den)
    (hR : infBits ≤ roundedBits .nearestEven neg num den) :
    IsNearestEven (roundResult .nearestEven neg num den).value (signed neg num) den ∧
      RaisesFor (roundResult .nearestEven neg num den) (signed neg num) den := by
  have hlarge := (infBits_le_roundedBits_iff neg num hden).1 hR
  have hnormal : (2 ^ 54 - 1) * den ≤ num := (Nat.mul_le_mul_right den le_overflowThreshold).trans hlarge
  rw [roundResult_of_le hR, isNearestEven_iff_of_le (hlarge.trans_eq (natAbs_signed neg num).symm)]
  refine ⟨congrArg infinity (by simp [signed_lt_zero_iff neg hnum]), ?_⟩
  exact
    { nv := rfl
      dz := rfl
      of := (isInf_infinity neg).symm
      nx := by simp [isInf_infinity]
      uf_inexact := fun _ => rfl
      uf_normal := fun _ => rfl
      uf_tiny := fun h => by
        rw [natAbs_signed] at h
        omega }

/-- Rounding to nearest gives what the obligation asks for. -/
theorem roundResult_rounded (neg : Bool) {num den : Nat} (hnum : 0 < num) (hden : 0 < den) :
    IsNearestEven (roundResult .nearestEven neg num den).value (signed neg num) den ∧
      RaisesFor (roundResult .nearestEven neg num den) (signed neg num) den := by
  rcases Nat.lt_or_ge (roundedBits .nearestEven neg num den) infBits with hR | hR
  · exact rounded_of_lt neg num hden hR
  · exact rounded_of_le neg hnum hden hR

/-- A zero of either sign is the rounded zero and raises nothing. -/
theorem signedZero_rounded (neg : Bool) {den : Nat} (hden : 0 < den) :
    IsNearestEven (exactly (signedZero neg)).value 0 den ∧ RaisesFor (exactly (signedZero neg)) 0 den := by
  have hval : dVal (signedZero neg) = 0 := by
    rw [signedZero, dVal_withSign neg (by decide), bitsMag_zero]
    cases neg <;> rfl
  have hexp : dExp (signedZero neg) < 2047 := dExp_withSign_lt neg (by decide)
  have hfinite := isInf_of_dExp_lt hexp
  have hthreshold : (0 : Int).natAbs < overflowThreshold * den :=
    Nat.mul_pos (lt_of_lt_of_le (by decide) le_overflowThreshold) hden
  rw [isNearestEven_iff_of_lt hthreshold, exactly, hval]
  refine ⟨⟨hexp, fun d _ => ⟨by simp, fun he hne => absurd ?_ hne⟩⟩, ?_⟩
  · have hmul : dVal d * den = 0 := Int.natAbs_eq_zero.1 (by simpa only [zero_mul, sub_zero, Int.natAbs_zero] using he.symm)
    exact (mul_eq_zero.1 hmul).resolve_right (by omega)
  · exact
      { nv := rfl
        dz := rfl
        of := hfinite.symm
        nx := by
          rw [hval, hfinite]
          simp [IeeeFlags.none]
        uf_inexact := fun h => h
        uf_normal := fun _ => rfl
        uf_tiny := fun _ => rfl }

/-! ### The operations on finite doubles -/

@[simp] theorem natAbs_dVal (d : Dword) : (dVal d).natAbs = dMag d := natAbs_signed ..

theorem isZero_eq (d : Dword) : isZero d = decide (dMag d = 0) := by
  rw [isZero, dMag, ← Bool.decide_and]
  refine decide_eq_decide.2 ?_
  split
  · next h => simp [h]
  · next h => simp [h]

theorem eq_signed_decide (x : Int) : x = signed (decide (x < 0)) x.natAbs := by
  unfold signed
  split
  · next h =>
    have := of_decide_eq_true h
    omega
  · next h =>
    have : ¬x < 0 := fun hx => h (decide_eq_true hx)
    omega

theorem signed_mul_signed (p q : Bool) (x y : Nat) : signed p x * signed q y = signed (p ^^ q) (x * y) := by
  cases p <;> cases q <;> simp [signed]

@[simp] theorem signed_zero (neg : Bool) : signed neg 0 = 0 := by
  cases neg <;> rfl

/-- The sum of two finite doubles. -/
theorem addNumbers_rounded (invalid : FpResult) {a b : Dword} (ha : dExp a < 2047) (hb : dExp b < 2047) :
    IsNearestEven (addNumbers .nearestEven invalid a b).value (dVal a + dVal b) 1 ∧
      RaisesFor (addNumbers .nearestEven invalid a b) (dVal a + dVal b) 1 := by
  rw [addNumbers, if_neg (by simp [isInf_of_dExp_lt ha]), if_neg (by simp [isInf_of_dExp_lt hb])]
  split
  · next hzero =>
    rw [hzero]
    exact signedZero_rounded _ one_pos
  · next hne =>
    have hround := roundResult_rounded (decide (dVal a + dVal b < 0)) (Int.natAbs_pos.2 hne) one_pos
    rwa [← eq_signed_decide] at hround

/-! The double with its sign bit inverted (R266): `fsubd x, y` is `faddd x, (-y)`. -/

theorem dExp_negateDouble (d : Dword) : dExp (negateDouble d) = dExp d := by
  have hslice : (negateDouble d).extractLsb' 52 11 = d.extractLsb' 52 11 := by
    rw [negateDouble, BitVec.extractLsb'_xor]
    exact BitVec.xor_zero
  rw [dExp, hslice, dExp]

theorem dFrac_negateDouble (d : Dword) : dFrac (negateDouble d) = dFrac d := by
  have hslice : (negateDouble d).extractLsb' 0 52 = d.extractLsb' 0 52 := by
    rw [negateDouble, BitVec.extractLsb'_xor]
    exact BitVec.xor_zero
  rw [dFrac, hslice, dFrac]

theorem dSign_negateDouble (d : Dword) : dSign (negateDouble d) = !dSign d := by
  simp [dSign, negateDouble]

theorem dVal_negateDouble (d : Dword) : dVal (negateDouble d) = -dVal d := by
  have hmag : dMag (negateDouble d) = dMag d := by
    rw [dMag, dMag, dExp_negateDouble, dFrac_negateDouble]
  rw [dVal_eq_signed, dVal_eq_signed, hmag, dSign_negateDouble]
  cases dSign d <;> simp [signed]

/-- The product of two finite doubles. -/
theorem mulNumbers_rounded (invalid : FpResult) {a b : Dword} (ha : dExp a < 2047) (hb : dExp b < 2047) :
    IsNearestEven (mulNumbers .nearestEven invalid a b).value (dVal a * dVal b) (2 ^ 1074) ∧
      RaisesFor (mulNumbers .nearestEven invalid a b) (dVal a * dVal b) (2 ^ 1074) ∧
      dSign (mulNumbers .nearestEven invalid a b).value = (dSign a ^^ dSign b) := by
  have hden : 0 < 2 ^ 1074 := by positivity
  rw [mulNumbers, if_neg (by simp [isInf_of_dExp_lt ha, isInf_of_dExp_lt hb]), dVal_eq_signed a, dVal_eq_signed b, signed_mul_signed]
  split
  · next hzero =>
    have hprod : dMag a * dMag b = 0 := by simpa [isZero_eq] using hzero
    have hround := signedZero_rounded (dSign a ^^ dSign b) hden
    rw [hprod, signed_zero]
    exact and_assoc.1 ⟨hround, dSign_withSign _ (by decide)⟩
  · next hne =>
    have hprod : 0 < dMag a * dMag b := by simpa [isZero_eq, Nat.pos_iff_ne_zero] using hne
    have hround := roundResult_rounded (dSign a ^^ dSign b) hprod hden
    exact and_assoc.1 ⟨hround, dSign_roundResult ..⟩

/-- The quotient of two finite doubles, the divisor not zero. -/
theorem divNumbers_rounded (invalid : FpResult) {a b : Dword} (ha : dExp a < 2047) (hb : dExp b < 2047) (hb0 : dVal b ≠ 0) :
    IsNearestEven (divNumbers .nearestEven invalid a b).value (dVal a * 2 ^ 1074 * (dVal b).sign) (dVal b).natAbs ∧
      RaisesFor (divNumbers .nearestEven invalid a b) (dVal a * 2 ^ 1074 * (dVal b).sign) (dVal b).natAbs ∧
      dSign (divNumbers .nearestEven invalid a b).value = (dSign a ^^ dSign b) := by
  have hden : 0 < dMag b := by simpa using Int.natAbs_pos.2 hb0
  have hscale : 0 < 2 ^ 1074 := by positivity
  have hvalue : dVal a * 2 ^ 1074 * (dVal b).sign = signed (dSign a ^^ dSign b) (dMag a * 2 ^ 1074) := by
    have hsign : (dVal b).sign = signed (dSign b) 1 := by
      rw [dVal_eq_signed]
      cases dSign b <;> simp [signed, Int.sign_eq_one_of_pos, hden]
    rw [hsign, dVal_eq_signed, mul_right_comm, signed_mul_signed, Nat.mul_one]
    exact_mod_cast signed_mul ..
  rw [divNumbers, if_neg (by simp [isInf_of_dExp_lt ha]), if_neg (by simp [isInf_of_dExp_lt hb]),
    if_neg (by simp [isZero_eq, hden.ne']), hvalue, natAbs_dVal]
  split
  · next hzero =>
    have hmag : dMag a = 0 := by simpa [isZero_eq] using hzero
    have hround := signedZero_rounded (dSign a ^^ dSign b) hden
    rw [hmag, Nat.zero_mul, signed_zero]
    exact and_assoc.1 ⟨hround, dSign_withSign _ (by decide)⟩
  · next hne =>
    have hmag : 0 < dMag a := by simpa [isZero_eq, Nat.pos_iff_ne_zero] using hne
    have hround := roundResult_rounded (dSign a ^^ dSign b) (Nat.mul_pos hmag hscale) hden
    exact and_assoc.1 ⟨hround, dSign_roundResult ..⟩

/-! ### The obligation -/

/-- Settles O49: the four operations on finite doubles round their exact values. -/
theorem fpResultsAreNearest : Obligations.FpResultsAreNearest := by
  intro a b ha hb
  have hnan : ¬(isNaN a || isNaN b) = true := by simp [isNaN_of_dExp_lt ha, isNaN_of_dExp_lt hb]
  simp only [ieeeArith, if_neg hnan]
  refine ⟨addNumbers_rounded _ ha hb, ?_, mulNumbers_rounded _ ha hb, divNumbers_rounded _ ha hb⟩
  rw [Int.sub_eq_add_neg, ← dVal_negateDouble]
  exact addNumbers_rounded _ ha (by rwa [dExp_negateDouble])

end Sys2Proof.Machine

/-! PROOFS. What a step does to the bytes of memory, and loads after stores (spec 20_memory.md R52, R58, R59, R61, R64,
46_load_store.md R230, R240, 47_floating_point.md R270, R271). -/

namespace Sys2Proof.Machine

/-! ### Reading back what was written -/

/-- The first `n` of the bytes written are the `n` most significant of the value (R52). -/
theorem WroteMemory.bigEndian_of_le {a : Word} {size : Nat} {v : BitVec (8 * size)} {s t : State} (h : WroteMemory a size v s t)
    {n : Nat} (hn : n ≤ size) : t.bigEndian a n = v.toNat / 2 ^ (8 * (size - n)) := by
  induction n with
  | zero => exact (Nat.div_eq_of_lt v.isLt).symm
  | succ n ih =>
    have hpow : 2 ^ (8 * (size - n)) = 2 ^ (8 * (size - 1 - n)) * 256 := by
      rw [show 8 * (size - n) = 8 * (size - 1 - n) + 8 by omega, Nat.pow_add]
    rw [State.bigEndian, ih (by omega), h.stored n (by omega), BitVec.extractLsb'_toNat, Nat.shiftRight_eq_div_pow, hpow,
      ← Nat.div_div_eq_div_mul, show size - (n + 1) = size - 1 - n by omega]
    exact Nat.div_add_mod' _ 256

theorem WroteMemory.bigEndian_eq {a : Word} {size : Nat} {v : BitVec (8 * size)} {s t : State} (h : WroteMemory a size v s t) :
    t.bigEndian a size = v.toNat := by
  simpa using h.bigEndian_of_le le_rfl

theorem WroteMemory.readWord_eq {a v : Word} {s t : State} (h : WroteMemory a 4 v s t) : t.mem.readWord a = v :=
  BitVec.eq_of_toNat_eq ((t.bigEndian_four a).symm.trans h.bigEndian_eq)

theorem WroteMemory.readDword_eq {a : Word} {v : Dword} {s t : State} (h : WroteMemory a 8 v s t) : t.mem.readDword a = v :=
  BitVec.eq_of_toNat_eq ((t.bigEndian_eight a).symm.trans h.bigEndian_eq)

/-- A byte that a permitted store changes is one of those it may write (R59, R64). -/
theorem WroteMemory.writable_of_ne {a : Word} {size : Nat} {v : BitVec (8 * size)} {s t : State} (h : WroteMemory a size v s t)
    (hs : s.storable a size) {b : Word} (hb : t.mem.readByte b ≠ s.mem.readByte b) : s.mapped b = true ∧ s.isText b = false := by
  have hin : ∃ k < size, b = a + BitVec.ofNat 32 k := by
    by_contra hout
    exact hb (h.others b fun k hk he => hout ⟨k, hk, he⟩)
  obtain ⟨k, hk, rfl⟩ := hin
  exact ⟨hs.loadable.mapped k hk, hs.notText k hk⟩

/-! ### What each store writes

A store that answers a next state was permitted (R230), and wrote its bytes at `ea`. -/

section
variable {s t : State} {rs1 rd : Reg} {src2 : RegOrImm}

theorem storeTo_next {ea : Word} {size : Nat} {m : Memory} (h : storeTo s ea size m = .next t) :
    s.storable ea size ∧ t.mem = m := by
  obtain ⟨haligned, hmapped, htext, rfl⟩ := (storeTo_eq_next_iff ..).1 h
  exact ⟨(s.storable_iff ea size).2 ⟨haligned, hmapped, htext⟩, rfl⟩

theorem execStb_next (hwf : s.mem.wf) (h : execStb rs1 src2 rd s = .next t) :
    s.storable (s.ea rs1 src2) 1 ∧ WroteMemory (s.ea rs1 src2) 1 ((s.reg rd).extractLsb' 0 8) s t :=
  (storeTo_next h).imp_right (wroteMemory_byte hwf _ _)

theorem execSth_next (hwf : s.mem.wf) (h : execSth rs1 src2 rd s = .next t) :
    s.storable (s.ea rs1 src2) 2 ∧ WroteMemory (s.ea rs1 src2) 2 ((s.reg rd).extractLsb' 0 16) s t :=
  (storeTo_next h).imp_right (wroteMemory_half hwf _ _)

theorem execSt_next (hwf : s.mem.wf) (h : execSt rs1 src2 rd s = .next t) :
    s.storable (s.ea rs1 src2) 4 ∧ WroteMemory (s.ea rs1 src2) 4 (s.reg rd) s t :=
  (storeTo_next h).imp_right (wroteMemory_word hwf _ _)

theorem execStd_next (hwf : s.mem.wf) (h : execStd rs1 src2 rd s = .next t) :
    s.storable (s.ea rs1 src2) 8 ∧ WroteMemory (s.ea rs1 src2) 8 (joinWords (s.reg rd) (s.reg (rd + 1))) s t := by
  obtain ⟨-, h⟩ := (withEvenRd_eq_next_iff ..).1 h
  exact (storeTo_next h).imp_right (wroteMemory_dword hwf _ _)

theorem execStdf_next {rd : FReg} (hwf : s.mem.wf) (h : execStdf rs1 src2 rd s = .next t) :
    s.storable (s.ea rs1 src2) 8 ∧ WroteMemory (s.ea rs1 src2) 8 (s.dreg rd) s t := by
  obtain ⟨-, h⟩ := (withFpu_eq_next_iff ..).1 h
  obtain ⟨-, h⟩ := (withEven_eq_next_iff ..).1 h
  exact (storeTo_next h).imp_right (wroteMemory_dword hwf _ _)

/-! ### What each load of a word or a double word writes -/

theorem execLd_next (h : execLd rs1 src2 rd s = .next t) : WroteRegister s.cwp rd (s.mem.readWord (s.ea rs1 src2)) s t := by
  obtain ⟨-, -, rfl⟩ := (loadInto_eq_next_iff ..).1 h
  exact (load_state ..).1

theorem execLdd_next (h : execLdd rs1 src2 rd s = .next t) :
    t = ((s.setReg rd (highWord (s.mem.readDword (s.ea rs1 src2)))).setReg (rd + 1)
      (lowWord (s.mem.readDword (s.ea rs1 src2)))).advance := by
  obtain ⟨-, h⟩ := (withEvenRd_eq_next_iff ..).1 h
  obtain ⟨-, -, h⟩ := (withAccess_eq_next_iff ..).1 h
  exact (next_eq_next_iff ..).1 h

theorem execLddf_next {rd : FReg} (h : execLddf rs1 src2 rd s = .next t) :
    WroteDouble rd (s.mem.readDword (s.ea rs1 src2)) s t := by
  obtain ⟨-, h⟩ := (withFpu_eq_next_iff ..).1 h
  obtain ⟨-, h⟩ := (withEven_eq_next_iff ..).1 h
  obtain ⟨-, -, h⟩ := (withAccess_eq_next_iff ..).1 h
  obtain rfl := (next_eq_next_iff ..).1 h
  exact (float_load_state ..).1

/-! ### Registers through a store -/

/-- After a change of memory alone the current window's registers read as before. -/
theorem OnlyChanged.reg_eq (h : OnlyChanged [.memory] s t) (n : Reg) : t.reg n = s.reg n := by
  have hregs : ∀ c, t.readCell c = s.readCell c := h.others .registers (by decide)
  have hcwp : t.cwp = s.cwp := h.others .window (by decide)
  rw [State.reg, State.regIn, State.cellIn, hregs, hcwp, h.constants.params]
  rfl

/-- A store leaves the effective address of the next access with the same operands. -/
theorem OnlyChanged.ea_eq (h : OnlyChanged [.memory] s t) (rs1 : Reg) (src2 : RegOrImm) : t.ea rs1 src2 = s.ea rs1 src2 := by
  cases src2 <;> simp only [State.ea, State.op2, h.reg_eq]

/-- Writing a register the value it has changes no cell, the constant one included. -/
theorem State.readCell_setReg_reg (s : State) (n : Reg) (c : RegCell) : (s.setReg n (s.reg n)).readCell c = s.readCell c := by
  rw [State.readCell_setReg]
  split
  · next hc => rw [hc.1]; rfl
  · rfl

/-- A register write moves no register to another cell, so writing the value it has leaves every register. -/
theorem State.reg_setReg_reg (s : State) (n m : Reg) : (s.setReg n (s.reg n)).reg m = s.reg m := by
  rw [State.reg, State.regIn, State.cellIn_setReg, State.cwp_setReg, State.readCell_setReg_reg]
  rfl

/-- A double register written with the value it has leaves every floating register. -/
theorem WroteDouble.freg_eq {n : FReg} (h : WroteDouble n (s.dreg n) s t) (m : FReg) : t.freg m = s.freg m := by
  rw [h m, State.dreg, highWord_joinWords, lowWord_joinWords]
  split
  · next hm => rw [hm]
  · split
    · next hm => rw [hm]
    · rfl

end

/-! ### Every instruction -/

/-- What an instruction can do to memory: nothing, or one permitted store. -/
theorem exec_memory_cases {i : Instr} {s t : State} (hwf : s.mem.wf) (h : exec i s = .next t) :
    (∀ a, t.mem.readByte a = s.mem.readByte a) ∨
      ∃ (a : Word) (size : Nat) (v : BitVec (8 * size)), s.storable a size ∧ WroteMemory a size v s t := by
  cases i with
  | stb => exact .inr ⟨_, _, _, execStb_next hwf h⟩
  | sth => exact .inr ⟨_, _, _, execSth_next hwf h⟩
  | st => exact .inr ⟨_, _, _, execSt_next hwf h⟩
  | std => exact .inr ⟨_, _, _, execStd_next hwf h⟩
  | stdf => exact .inr ⟨_, _, _, execStdf_next hwf h⟩
  | _ => exact .inl ((exec_ending h).onlyChanged.others .memory (not_mem_of_contains_eq_false rfl))

/-! ### A load after a store -/

section
variable {s t u : State} {rs1 rd : Reg} {src2 : RegOrImm}

theorem ld_after_st {rd' : Reg} (hwf : s.mem.wf) (hst : exec (.st rs1 src2 rd) s = .next t)
    (hld : exec (.ld rs1 src2 rd') t = .next u) : WroteRegister t.cwp rd' (s.reg rd) t u := by
  obtain ⟨-, hstored⟩ := execSt_next hwf hst
  have hea := (exec_ending hst).onlyChanged.ea_eq rs1 src2
  have hloaded := execLd_next hld
  rwa [hea, hstored.readWord_eq] at hloaded

/-- The pair gets back the values it has, one register after the other. -/
theorem ldd_after_std (hwf : s.mem.wf) (hstd : exec (.std rs1 src2 rd) s = .next t)
    (hldd : exec (.ldd rs1 src2 rd) t = .next u) (c : RegCell) : u.readCell c = s.readCell c := by
  obtain ⟨-, hstored⟩ := execStd_next hwf hstd
  have hframe : OnlyChanged [.memory] s t := (exec_ending hstd).onlyChanged
  have hu := execLdd_next hldd
  rw [hframe.ea_eq rs1 src2, hstored.readDword_eq, highWord_joinWords, lowWord_joinWords, ← hframe.reg_eq rd,
    ← hframe.reg_eq (rd + 1), ← t.reg_setReg_reg rd (rd + 1)] at hu
  calc u.readCell c = t.readCell c := by
        rw [hu, State.readCell_advance, State.readCell_setReg_reg, State.readCell_setReg_reg]
    _ = s.readCell c := hframe.others .registers (by decide) c

theorem lddf_after_stdf {rd : FReg} (hwf : s.mem.wf) (hstdf : exec (.stdf rs1 src2 rd) s = .next t)
    (hlddf : exec (.lddf rs1 src2 rd) t = .next u) (n : FReg) : u.freg n = s.freg n := by
  obtain ⟨-, hstored⟩ := execStdf_next hwf hstdf
  have hframe : OnlyChanged [.memory] s t := (exec_ending hstdf).onlyChanged
  have hfloats : ∀ m, t.freg m = s.freg m := hframe.others .floats (by decide)
  have hloaded := execLddf_next hlddf
  rw [hframe.ea_eq rs1 src2, hstored.readDword_eq, State.dreg, ← hfloats, ← hfloats] at hloaded
  exact (WroteDouble.freg_eq hloaded n).trans (hfloats n)

theorem lddf_after_std {rd' : FReg} (hwf : s.mem.wf) (hstd : exec (.std rs1 src2 rd) s = .next t)
    (hlddf : exec (.lddf rs1 src2 rd') t = .next u) : WroteDouble rd' (s.reg rd ++ s.reg (rd + 1)) t u := by
  obtain ⟨-, hstored⟩ := execStd_next hwf hstd
  have hea := (exec_ending hstd).onlyChanged.ea_eq rs1 src2
  have hloaded := execLddf_next hlddf
  rwa [hea, hstored.readDword_eq] at hloaded

end

/-! ### The obligations -/

/-- Settles O46: the step runs an instruction, and what it stores was permitted. -/
theorem onlyWritableBytesChange : Obligations.OnlyWritableBytesChange := by
  intro s t a hwf hstep hne
  obtain ⟨i, hexec⟩ := exec_of_step hstep
  rcases exec_memory_cases hwf hexec with hsame | ⟨_, _, _, hstorable, hwrote⟩
  · exact absurd (hsame a) hne
  · exact hwrote.writable_of_ne hstorable hne

/-- Settles O47, one lemma for each pair. -/
theorem loadsReturnStores : Obligations.LoadsReturnStores := fun _ _ _ _ _ _ _ hwf =>
  ⟨ld_after_st hwf, ldd_after_std hwf, lddf_after_stdf hwf, lddf_after_std hwf⟩

end Sys2Proof.Machine

/-! PROOFS. Encodings (spec 30_encoding.md R80 to R101): what the decoder makes of each shape the encoder writes, that a word is put
together again from its fields, and that the opcode maps are those of the encoder. -/

namespace Sys2Proof

/-! ### The decode procedure by `op` (R81, R101) -/

section
variable {w : Word}

theorem decode_of_op_zero (h : fieldOp w = 0) : decode w = decodeFormat2 w := by
  rw [decode, h]
  rfl

theorem decode_of_op_one (h : fieldOp w = 1) : decode w = .instr (.call (fieldDisp30 w)) := by
  rw [decode, h]
  rfl

theorem decode_of_op_two (h : fieldOp w = 2) : decode w = decodeFormat3 (arithmeticEntry (fieldOp3 w)) w := by
  rw [decode, h]
  rfl

theorem decode_of_op_three (h : fieldOp w = 3) : decode w = decodeFormat3 (memoryEntry (fieldOp3 w)) w := by
  rw [decode, h]
  rfl

theorem decode_of_fpop1 (hop : fieldOp w = 2) (hop3 : fieldOp3 w = 0x34) : decode w = decodeFp (fpop1Entry (fieldOpf w)) w := by
  rw [decode_of_op_two hop, hop3]
  rfl

theorem decode_of_fpop2 (hop : fieldOp w = 2) (hop3 : fieldOp3 w = 0x35) : decode w = decodeFp (fpop2Entry (fieldOpf w)) w := by
  rw [decode_of_op_two hop, hop3]
  rfl

theorem fieldOp_cases (w : Word) : fieldOp w = 0 ∨ fieldOp w = 1 ∨ fieldOp w = 2 ∨ fieldOp w = 3 := by
  generalize fieldOp w = op
  revert op
  decide

end

/-! ### What each shape decodes to -/

theorem decode_wordCall (disp30 : BitVec 30) : decode (wordCall disp30) = .instr (.call disp30) := by
  rw [decode_of_op_one (fieldOp_wordCall _), fieldDisp30_wordCall]

/-- `nop` is decoded before `sethi` (R101). -/
theorem decode_wordSethi (imm22 : BitVec 22) (rd : Reg) :
    decode (wordSethi imm22 rd) = if rd = 0 ∧ imm22 = 0 then .instr .nop else .instr (.sethi imm22 rd) := by
  rw [decode_of_op_zero (fieldOp_wordSethi ..), decodeFormat2, fieldOp2_wordSethi, fieldImm22_wordSethi, fieldRd_wordSethi]
  rfl

theorem decode_wordBranch_integer (cond : BitVec 4) (annul : Bool) (disp22 : BitVec 22) :
    decode (wordBranch 2 cond annul disp22) = .instr (integerBranch cond annul disp22) := by
  rw [decode_of_op_zero (fieldOp_wordBranch ..), decodeFormat2, fieldOp2_wordBranch, fieldCond_wordBranch, fieldAnnul_wordBranch,
    fieldImm22_wordBranch]
  rfl

theorem decode_wordBranch_float (cond : BitVec 4) (annul : Bool) (disp22 : BitVec 22) :
    decode (wordBranch 6 cond annul disp22) = .instr (floatBranch cond annul disp22) := by
  rw [decode_of_op_zero (fieldOp_wordBranch ..), decodeFormat2, fieldOp2_wordBranch, fieldCond_wordBranch, fieldAnnul_wordBranch,
    fieldImm22_wordBranch]
  rfl

theorem fieldOp_wordOperand (op : BitVec 2) (op3 : BitVec 6) (rs1 rd : Reg) (src2 : RegOrImm) :
    fieldOp (wordOperand op op3 rs1 src2 rd) = op := by
  cases src2 <;> simp

theorem fieldOp3_wordOperand (op : BitVec 2) (op3 : BitVec 6) (rs1 rd : Reg) (src2 : RegOrImm) :
    fieldOp3 (wordOperand op op3 rs1 src2 rd) = op3 := by
  cases src2 <;> simp

theorem decodeOperand_wordOperand (mk : Reg → RegOrImm → Reg → Instr) (op : BitVec 2) (op3 : BitVec 6) (rs1 rd : Reg)
    (src2 : RegOrImm) : decodeOperand mk (wordOperand op op3 rs1 src2 rd) = .instr (mk rs1 src2 rd) := by
  cases src2 <;> simp [decodeOperand]

theorem decodeShift_wordShift (mk : Reg → ShiftCount → Reg → Instr) (op3 : BitVec 6) (rs1 rd : Reg) (count : ShiftCount) :
    decodeShift mk (wordShift op3 rs1 count rd) = .instr (mk rs1 count rd) := by
  cases count <;> simp [decodeShift]

section
variable {op3 : BitVec 6} {opf : BitVec 9}

theorem decode_wordOperand_arithmetic {mk : Reg → RegOrImm → Reg → Instr} (hentry : arithmeticEntry op3 = .operand mk) (rs1 rd : Reg)
    (src2 : RegOrImm) : decode (wordOperand 2 op3 rs1 src2 rd) = .instr (mk rs1 src2 rd) := by
  rw [decode_of_op_two (fieldOp_wordOperand ..), fieldOp3_wordOperand, hentry, decodeFormat3, decodeOperand_wordOperand]

theorem decode_wordOperand_memory {mk : Reg → RegOrImm → Reg → Instr} (hentry : memoryEntry op3 = .operand mk) (rs1 rd : Reg)
    (src2 : RegOrImm) : decode (wordOperand 3 op3 rs1 src2 rd) = .instr (mk rs1 src2 rd) := by
  rw [decode_of_op_three (fieldOp_wordOperand ..), fieldOp3_wordOperand, hentry, decodeFormat3, decodeOperand_wordOperand]

theorem decode_wordShift {mk : Reg → ShiftCount → Reg → Instr} (hentry : arithmeticEntry op3 = .shift mk) (rs1 rd : Reg)
    (count : ShiftCount) : decode (wordShift op3 rs1 count rd) = .instr (mk rs1 count rd) := by
  have hop : fieldOp (wordShift op3 rs1 count rd) = 2 := by cases count <;> simp
  have hop3 : fieldOp3 (wordShift op3 rs1 count rd) = op3 := by cases count <;> simp
  rw [decode_of_op_two hop, hop3, hentry, decodeFormat3, decodeShift_wordShift]

theorem decode_wordFp_unary {mk : FReg → FReg → Instr} (hentry : fpop1Entry opf = .unary mk) (rs2 rd : FReg) :
    decode (wordFp 0x34 opf 0 rs2 rd) = .instr (mk rs2 rd) := by
  rw [Machine.decode_wordFp_fpop1, hentry, decodeFp, fieldRs1_wordFp, if_pos rfl, fieldRs2_wordFp, fieldRd_wordFp]

theorem decode_wordFp_compare {mk : FReg → FReg → Instr} (hentry : fpop2Entry opf = .compare mk) (rs1 rs2 : FReg) :
    decode (wordFp 0x35 opf rs1 rs2 0) = .instr (mk rs1 rs2) := by
  rw [decode_of_fpop2 (fieldOp_wordFp ..) (fieldOp3_wordFp ..), fieldOpf_wordFp, hentry, decodeFp, fieldRd_wordFp, if_pos rfl,
    fieldRs1_wordFp, fieldRs2_wordFp]

end

/-! ### A word from its fields (R82 to R85) -/

/-- A slice of a word, put back where it was taken. -/
theorem getLsbD_placed_extract (w : Word) {lo n : Nat} (h : lo + n ≤ 32) (k : Nat) :
    (placed (w.extractLsb' lo n) lo).getLsbD k = (decide (lo ≤ k ∧ k < lo + n) && w.getLsbD k) := by
  by_cases hlo : lo ≤ k
  · by_cases hhi : k < lo + n
    · simp [placed, hlo, hhi, show k < 32 by omega, show k - lo < n by omega, show ¬ k < lo by omega]
    · simp [placed, hhi, show ¬ k - lo < n by omega]
  · simp [placed, hlo, show k < lo by omega]

/-- Two slices that meet, put back, are one slice put back. -/
theorem placed_extract_or (w : Word) (lo m n : Nat) (h : lo + m + n ≤ 32) :
    placed (w.extractLsb' (lo + m) n) (lo + m) ||| placed (w.extractLsb' lo m) lo = placed (w.extractLsb' lo (m + n)) lo := by
  apply BitVec.eq_of_getLsbD_eq
  intro k hk
  rw [BitVec.getLsbD_or, getLsbD_placed_extract w (by omega), getLsbD_placed_extract w (by omega), getLsbD_placed_extract w (by omega),
    ← Bool.and_or_distrib_right, ← Bool.decide_or]
  congr 2
  simp only [eq_iff_iff]
  omega


theorem placed_extract_all (w : Word) : placed (w.extractLsb' 0 32) 0 = w := by
  simp [placed]

theorem extract_of_getLsbD {w : Word} {k : Nat} {b : Bool} (h : w.getLsbD k = b) : w.extractLsb' k 1 = BitVec.ofBool b := by
  apply BitVec.eq_of_getLsbD_eq
  intro i hi
  obtain rfl : i = 0 := by omega
  simp [h]

section
variable {w : Word}

theorem wordCall_of_fields (hop : fieldOp w = 1) : wordCall (fieldDisp30 w) = w := by
  have hall : placed (fieldOp w) 30 ||| placed (fieldDisp30 w) 0 = placed (w.extractLsb' 0 32) 0 := placed_extract_or w 0 30 2 (by decide)
  rwa [hop, placed_extract_all] at hall

theorem wordSethi_of_fields (hop : fieldOp w = 0) (hop2 : fieldOp2 w = 4) : wordSethi (fieldImm22 w) (fieldRd w) = w := by
  have hrd : placed (fieldOp w) 30 ||| placed (fieldRd w) 25 = placed (w.extractLsb' 25 7) 25 := placed_extract_or w 25 5 2 (by decide)
  have hmiddle : placed (w.extractLsb' 25 7) 25 ||| placed (fieldOp2 w) 22 = placed (w.extractLsb' 22 10) 22 :=
    placed_extract_or w 22 3 7 (by decide)
  have hall : placed (w.extractLsb' 22 10) 22 ||| placed (fieldImm22 w) 0 = placed (w.extractLsb' 0 32) 0 :=
    placed_extract_or w 0 22 10 (by decide)
  rwa [← hmiddle, ← hrd, hop, hop2, placed_extract_all] at hall

theorem wordBranch_of_fields {op2 : BitVec 3} (hop : fieldOp w = 0) (hop2 : fieldOp2 w = op2) :
    wordBranch op2 (fieldCond w) (fieldAnnul w) (fieldImm22 w) = w := by
  have hannul : w.extractLsb' 29 1 = BitVec.ofBool (fieldAnnul w) := extract_of_getLsbD rfl
  have htop : placed (fieldOp w) 30 ||| placed (w.extractLsb' 29 1) 29 = placed (w.extractLsb' 29 3) 29 :=
    placed_extract_or w 29 1 2 (by decide)
  have hcond : placed (w.extractLsb' 29 3) 29 ||| placed (fieldCond w) 25 = placed (w.extractLsb' 25 7) 25 :=
    placed_extract_or w 25 4 3 (by decide)
  have hmiddle : placed (w.extractLsb' 25 7) 25 ||| placed (fieldOp2 w) 22 = placed (w.extractLsb' 22 10) 22 :=
    placed_extract_or w 22 3 7 (by decide)
  have hall : placed (w.extractLsb' 22 10) 22 ||| placed (fieldImm22 w) 0 = placed (w.extractLsb' 0 32) 0 :=
    placed_extract_or w 0 22 10 (by decide)
  rwa [← hmiddle, ← hcond, ← htop, hannul, hop, hop2, placed_extract_all] at hall

/-- The fields that all shapes of Format 3 have are bits 31:14 (R84). -/
theorem format3_high {op : BitVec 2} (hop : fieldOp w = op) :
    placed op 30 ||| placed (fieldRd w) 25 ||| placed (fieldOp3 w) 19 ||| placed (fieldRs1 w) 14 =
      placed (w.extractLsb' 14 18) 14 := by
  have hrd : placed (fieldOp w) 30 ||| placed (fieldRd w) 25 = placed (w.extractLsb' 25 7) 25 := placed_extract_or w 25 5 2 (by decide)
  have hop3 : placed (w.extractLsb' 25 7) 25 ||| placed (fieldOp3 w) 19 = placed (w.extractLsb' 19 13) 19 :=
    placed_extract_or w 19 6 7 (by decide)
  rw [← hop, hrd, hop3]
  exact placed_extract_or w 14 5 13 (by decide)

/-- With bits 12:5 zero, bits 13:0 are `i` and `rs2` (R84, R97). -/
theorem format3_low {i : Bool} (hi : fieldI w = i) (hreserved : fieldReserved w = 0) :
    placed (BitVec.ofBool i) 13 ||| placed (fieldRs2 w) 0 = placed (w.extractLsb' 0 14) 0 := by
  have hmiddle : placed (w.extractLsb' 13 1) 13 ||| placed (fieldReserved w) 5 = placed (w.extractLsb' 5 9) 5 :=
    placed_extract_or w 5 8 1 (by decide)
  have hlow : placed (w.extractLsb' 5 9) 5 ||| placed (fieldRs2 w) 0 = placed (w.extractLsb' 0 14) 0 :=
    placed_extract_or w 0 5 9 (by decide)
  have hzero : placed (0 : BitVec 8) 5 = 0#32 := rfl
  rwa [← hmiddle, hreserved, hzero, BitVec.or_zero, extract_of_getLsbD hi] at hlow

theorem format3_all (w : Word) : placed (w.extractLsb' 14 18) 14 ||| placed (w.extractLsb' 0 14) 0 = w :=
  (placed_extract_or w 0 14 18 (by decide)).trans (placed_extract_all w)

theorem wordOperand_imm_of_fields (hi : fieldI w = true) :
    wordOperand (fieldOp w) (fieldOp3 w) (fieldRs1 w) (.imm (fieldSimm13 w)) (fieldRd w) = w := by
  have hi' : w.extractLsb' 13 1 = 1#1 := extract_of_getLsbD hi
  have hlow : placed (w.extractLsb' 13 1) 13 ||| placed (fieldSimm13 w) 0 = placed (w.extractLsb' 0 14) 0 :=
    placed_extract_or w 0 13 1 (by decide)
  rw [hi'] at hlow
  rw [wordOperand, format3_high rfl, hlow, format3_all]

theorem wordOperand_reg_of_fields (hi : fieldI w = false) (hreserved : fieldReserved w = 0) :
    wordOperand (fieldOp w) (fieldOp3 w) (fieldRs1 w) (.reg (fieldRs2 w)) (fieldRd w) = w := by
  have hlow : placed 0#1 13 ||| placed (fieldRs2 w) 0 = _ := format3_low (i := false) hi hreserved
  rw [wordOperand, format3_high rfl, hlow, format3_all]

theorem wordShift_of_fields (hop : fieldOp w = 2#2) (hreserved : fieldReserved w = 0) :
    wordShift (fieldOp3 w) (fieldRs1 w) (if fieldI w then .imm (fieldRs2 w) else .reg (fieldRs2 w)) (fieldRd w) = w := by
  cases hi : fieldI w with
  | false =>
    have hlow : placed 0#1 13 ||| placed (fieldRs2 w) 0 = _ := format3_low (i := false) hi hreserved
    rw [if_neg Bool.false_ne_true, wordShift, format3_high hop, hlow, format3_all]
  | true =>
    have hlow : placed 1#1 13 ||| placed (fieldRs2 w) 0 = _ := format3_low (i := true) hi hreserved
    rw [if_pos rfl, wordShift, format3_high hop, hlow, format3_all]

theorem wordFp_of_fields (hop : fieldOp w = 2#2) :
    wordFp (fieldOp3 w) (fieldOpf w) (fieldRs1 w) (fieldRs2 w) (fieldRd w) = w := by
  have hopf : placed (w.extractLsb' 14 18) 14 ||| placed (fieldOpf w) 5 = placed (w.extractLsb' 5 27) 5 :=
    placed_extract_or w 5 9 18 (by decide)
  have hall : placed (w.extractLsb' 5 27) 5 ||| placed (fieldRs2 w) 0 = placed (w.extractLsb' 0 32) 0 :=
    placed_extract_or w 0 5 27 (by decide)
  rw [wordFp, format3_high hop, hopf, hall, placed_extract_all]

end

/-! ### The opcode maps are those of the encoder (R86 to R91) -/

theorem encode_integerBranch (cond : BitVec 4) (annul : Bool) (disp22 : BitVec 22) :
    encode (integerBranch cond annul disp22) = wordBranch 2 cond annul disp22 := by
  obtain ⟨⟨n, hn⟩⟩ := cond
  interval_cases n <;> rfl

theorem encode_floatBranch (cond : BitVec 4) (annul : Bool) (disp22 : BitVec 22) :
    encode (floatBranch cond annul disp22) = wordBranch 6 cond annul disp22 := by
  obtain ⟨⟨n, hn⟩⟩ := cond
  interval_cases n <;> rfl

/-- What the map gives for `opf` is written with that `opf` (R91). -/
def OpfEntry.Encodes (op3 : BitVec 6) (opf : BitVec 9) : OpfEntry → Prop
  | .binary mk => ∀ rs1 rs2 rd, encode (mk rs1 rs2 rd) = wordFp op3 opf rs1 rs2 rd
  | .unary mk => ∀ rs2 rd, encode (mk rs2 rd) = wordFp op3 opf 0 rs2 rd
  | .compare mk => ∀ rs1 rs2, encode (mk rs1 rs2) = wordFp op3 opf rs1 rs2 0
  | .outOfSubset _ | .unassigned => True

/-- What the map gives for `op3` is written with that `op3` (R87, R88). -/
def Op3Entry.Encodes (op : BitVec 2) (op3 : BitVec 6) : Op3Entry → Prop
  | .operand mk => ∀ rs1 src2 rd, encode (mk rs1 src2 rd) = wordOperand op op3 rs1 src2 rd
  | .shift mk => op = 2 ∧ ∀ rs1 count rd, encode (mk rs1 count rd) = wordShift op3 rs1 count rd
  | .fpOperate entry => op = 2 ∧ ∀ opf, (entry opf).Encodes op3 opf
  | .outOfSubset _ | .unassigned => True

theorem fpop1Entry_encodes (opf : BitVec 9) : (fpop1Entry opf).Encodes 0x34#6 opf := by
  unfold fpop1Entry
  split <;> simp [OpfEntry.Encodes, encode]

theorem fpop2Entry_encodes (opf : BitVec 9) : (fpop2Entry opf).Encodes 0x35#6 opf := by
  unfold fpop2Entry
  split <;> simp [OpfEntry.Encodes, encode]

theorem arithmeticEntry_encodes (op3 : BitVec 6) : (arithmeticEntry op3).Encodes 2 op3 := by
  unfold arithmeticEntry
  split <;> simp [Op3Entry.Encodes, encode, fpop1Entry_encodes, fpop2Entry_encodes]

theorem memoryEntry_encodes (op3 : BitVec 6) : (memoryEntry op3).Encodes 3 op3 := by
  unfold memoryEntry
  split <;> simp [Op3Entry.Encodes, encode]

/-! ### From the word of an instruction to the instruction -/

theorem decode_encode (i : Instr) (hi : i.WellFormed) : decode (encode i) = .instr i := by
  cases i with
  | add | addcc | sub | subcc | umul | umulcc | smul | smulcc | udiv | udivcc | sdiv | sdivcc | and | andcc | andn | andncc | or | orcc
  | orn | orncc | xor | xorcc | xnor | xnorcc | save | restore | jmpl => exact decode_wordOperand_arithmetic rfl ..
  | ldsb | ldsh | ldub | lduh | ld | ldd | stb | sth | st | std | stdf | lddf => exact decode_wordOperand_memory rfl ..
  | sll | srl | sra => exact decode_wordShift rfl ..
  | nop => exact decode_wordSethi 0 0
  | sethi imm22 rd =>
    have hne : ¬ (rd = 0 ∧ imm22 = 0) := by
      rintro ⟨rfl, rfl⟩
      exact hi rfl
    exact (decode_wordSethi imm22 rd).trans (if_neg hne)
  | call => exact decode_wordCall _
  | ba | bn | bne | be | bg | ble | bge | bl | bgu | bleu | bcc | bcs | bpos | bneg | bvc | bvs => exact decode_wordBranch_integer ..
  | fba | fbn | fbu | fbg | fbug | fbl | fbul | fblg | fbne | fbe | fbue | fbge | fbuge | fble | fbule | fbo =>
    exact decode_wordBranch_float ..
  | faddd | fsubd | fmuld | fdivd => exact (Machine.hasOpf_of_binary rfl rfl).opcode.decodes
  | fmovd | fnegd | fabsd | fitod | fdtoi => exact decode_wordFp_unary rfl ..
  | fcmpd => exact decode_wordFp_compare rfl ..

/-! ### From a word to its instruction and back -/

section
variable {w : Word} {i : Instr}

theorem encode_of_decodeFormat2 (hop : fieldOp w = 0) (h : decodeFormat2 w = .instr i) : encode i = w := by
  unfold decodeFormat2 at h
  split at h
  next hop2 =>
    split at h
    case isTrue hzero =>
      obtain ⟨hrd, himm22⟩ := hzero
      obtain rfl := Decoded.instr.inj h
      rw [← wordSethi_of_fields hop hop2, hrd, himm22]
      rfl
    case isFalse =>
      obtain rfl := Decoded.instr.inj h
      exact wordSethi_of_fields hop hop2
  next hop2 =>
    obtain rfl := Decoded.instr.inj h
    exact (encode_integerBranch ..).trans (wordBranch_of_fields hop hop2)
  next hop2 =>
    obtain rfl := Decoded.instr.inj h
    exact (encode_floatBranch ..).trans (wordBranch_of_fields hop hop2)
  all_goals contradiction

theorem encode_of_decodeOperand {mk : Reg → RegOrImm → Reg → Instr}
    (hmk : ∀ rs1 src2 rd, encode (mk rs1 src2 rd) = wordOperand (fieldOp w) (fieldOp3 w) rs1 src2 rd)
    (h : decodeOperand mk w = .instr i) : encode i = w := by
  unfold decodeOperand at h
  split at h
  case isTrue himm =>
    obtain rfl := Decoded.instr.inj h
    exact (hmk ..).trans (wordOperand_imm_of_fields himm)
  case isFalse himm =>
    split at h
    case isTrue hreserved =>
      obtain rfl := Decoded.instr.inj h
      exact (hmk ..).trans (wordOperand_reg_of_fields (by simpa using himm) hreserved)
    case isFalse => cases h

theorem encode_of_decodeShift {mk : Reg → ShiftCount → Reg → Instr} (hop : fieldOp w = 2)
    (hmk : ∀ rs1 count rd, encode (mk rs1 count rd) = wordShift (fieldOp3 w) rs1 count rd)
    (h : decodeShift mk w = .instr i) : encode i = w := by
  unfold decodeShift at h
  split at h
  case isTrue hreserved =>
    obtain rfl := Decoded.instr.inj h
    exact (hmk ..).trans (wordShift_of_fields hop hreserved)
  case isFalse => cases h

theorem encode_of_decodeFp {e : OpfEntry} (hop : fieldOp w = 2) (he : e.Encodes (fieldOp3 w) (fieldOpf w))
    (h : decodeFp e w = .instr i) : encode i = w := by
  have hword := wordFp_of_fields hop
  cases e with
  | binary mk =>
    obtain rfl := Decoded.instr.inj h
    exact (he ..).trans hword
  | unary mk =>
    rw [decodeFp] at h
    split at h
    case isTrue hrs1 =>
      obtain rfl := Decoded.instr.inj h
      rw [hrs1] at hword
      exact (he ..).trans hword
    case isFalse => cases h
  | compare mk =>
    rw [decodeFp] at h
    split at h
    case isTrue hrd =>
      obtain rfl := Decoded.instr.inj h
      rw [hrd] at hword
      exact (he ..).trans hword
    case isFalse => cases h
  | outOfSubset name => cases h
  | unassigned => cases h

theorem encode_of_decodeFormat3 {e : Op3Entry} (he : e.Encodes (fieldOp w) (fieldOp3 w)) (h : decodeFormat3 e w = .instr i) :
    encode i = w := by
  cases e with
  | operand mk => exact encode_of_decodeOperand he h
  | shift mk =>
    obtain ⟨hop, hmk⟩ := he
    exact encode_of_decodeShift hop hmk h
  | fpOperate entry =>
    obtain ⟨hop, hentry⟩ := he
    exact encode_of_decodeFp hop (hentry _) h
  | outOfSubset name => cases h
  | unassigned => cases h

theorem encode_of_decode (h : decode w = .instr i) : encode i = w := by
  rcases fieldOp_cases w with hop | hop | hop | hop
  · exact encode_of_decodeFormat2 hop (decode_of_op_zero hop ▸ h)
  · obtain rfl := Decoded.instr.inj ((decode_of_op_one hop).symm.trans h)
    exact wordCall_of_fields hop
  · exact encode_of_decodeFormat3 (hop ▸ arithmeticEntry_encodes _) (decode_of_op_two hop ▸ h)
  · exact encode_of_decodeFormat3 (hop ▸ memoryEntry_encodes _) (decode_of_op_three hop ▸ h)

/-- The word of `sethi 0, %g0` is the word of `nop`, and decodes to that (R101, R171). -/
theorem wellFormed_of_decode (h : decode w = .instr i) : i.WellFormed := by
  rintro rfl
  obtain rfl : wordSethi 0 0 = w := encode_of_decode h
  exact absurd ((decode_wordSethi 0 0).symm.trans h) (by decide)

end

/-! ### The obligations -/

/-- Settles O1: each constructor's word has its shape, and the opcode maps give the constructor back. -/
theorem decodeOfEncode : Obligations.DecodeOfEncode := decode_encode

/-- Settles O2: a word is put together again from the fields that its instruction carries, the reserved ones being zero. -/
theorem encodeOfDecode : Obligations.EncodeOfDecode := fun _ _ h => ⟨encode_of_decode h, wellFormed_of_decode h⟩

end Sys2Proof

/-! PROOFS. The words that are no instruction (spec 30_encoding.md R97 to R99): what each kind decodes to, and what a step on it answers. -/

namespace Sys2Proof

/-! ### What the opcode maps reject -/

/-- What a word is rejected as whose `op3` has this entry, whatever its other fields (R98, R99). -/
def Op3Entry.rejection : Op3Entry → Option Decoded
  | .outOfSubset name => some (.outOfSubset name)
  | .unassigned => some .illegal
  | .operand _ | .shift _ | .fpOperate _ => none

/-- What a word is rejected as whose `opf` has this entry, whatever its other fields (R98, R99). -/
def OpfEntry.rejection : OpfEntry → Option Decoded
  | .outOfSubset name => some (.outOfSubset name)
  | .unassigned => some .unimplementedFPop
  | .binary _ | .unary _ | .compare _ => none

/-- The entry's instruction has a second operand, whose register form leaves bits 12:5 unused (R97). -/
def Op3Entry.takesOperand : Op3Entry → Bool
  | .operand _ | .shift _ => true
  | .fpOperate _ | .outOfSubset _ | .unassigned => false

/-- Both forms of the entry's instruction leave bits 12:5 unused (R96, R97). -/
def Op3Entry.isShift : Op3Entry → Bool
  | .shift _ => true
  | .operand _ | .fpOperate _ | .outOfSubset _ | .unassigned => false

/-- The entry's instruction leaves `rs1` unused (R97). -/
def OpfEntry.isUnary : OpfEntry → Bool
  | .unary _ => true
  | .binary _ | .compare _ | .outOfSubset _ | .unassigned => false

/-- The FPop1 map assigns these `opf` and no other (R91). -/
theorem fpop1Entry_of_not_mem {opf : BitVec 9}
    (h : opf ∉ ([0x042, 0x046, 0x04A, 0x04E, 0x002, 0x006, 0x00A, 0x0C8, 0x0D2, 0x001, 0x005, 0x009, 0x029, 0x02A, 0x02B,
      0x041, 0x043, 0x045, 0x047, 0x049, 0x04B, 0x04D, 0x04F, 0x069, 0x06E, 0x0C4, 0x0C6, 0x0C7, 0x0C9, 0x0CB, 0x0CC,
      0x0CD, 0x0CE, 0x0D1, 0x0D3] : List (BitVec 9))) : fpop1Entry opf = .unassigned := by
  contrapose! h
  unfold fpop1Entry at h
  split at h <;> simp at h ⊢

/-- The FPop2 map assigns these `opf` and no other (R91). -/
theorem fpop2Entry_of_not_mem {opf : BitVec 9} (h : opf ∉ ([0x052, 0x051, 0x053, 0x055, 0x056, 0x057] : List (BitVec 9))) :
    fpop2Entry opf = .unassigned := by
  contrapose! h
  unfold fpop2Entry at h
  split at h <;> simp at h ⊢

/-! ### Rejected words

Where a rule lists codes, a lemma takes the list and asks what the opcode map gives for its codes. -/

section
variable {w : Word} {n : Nat} {field : BitVec n} {codes : List (BitVec n)}

theorem decode_of_op2_illegal (hop : fieldOp w = 0) (hop2 : fieldOp2 w ∈ ([0, 1, 3, 5] : List (BitVec 3))) : decode w = .illegal := by
  simp only [List.mem_cons, List.not_mem_nil, or_false] at hop2
  rw [decode_of_op_zero hop]
  rcases hop2 with hop2 | hop2 | hop2 | hop2 <;> rw [decodeFormat2, hop2] <;> rfl

theorem decode_of_op2_coprocessor (hop : fieldOp w = 0) (hop2 : fieldOp2 w = 7) : decode w = .outOfSubset "CBccc" := by
  rw [decode_of_op_zero hop, decodeFormat2, hop2]
  rfl

theorem decodeFormat3_of_rejection {e : Op3Entry} {d : Decoded} (he : e.rejection = some d) : decodeFormat3 e w = d := by
  cases e with
  | outOfSubset name => exact Option.some.inj he
  | unassigned => exact Option.some.inj he
  | _ => cases he

theorem decodeFp_of_rejection {e : OpfEntry} {d : Decoded} (he : e.rejection = some d) : decodeFp e w = d := by
  cases e with
  | outOfSubset name => exact Option.some.inj he
  | unassigned => exact Option.some.inj he
  | _ => cases he

theorem decodeFormat3_of_mem {entry : BitVec n → Op3Entry} {d : Decoded} (hcodes : ∀ c ∈ codes, (entry c).rejection = some d)
    (h : field ∈ codes) : decodeFormat3 (entry field) w = d :=
  decodeFormat3_of_rejection (hcodes field h)

section
variable {rows : List (BitVec n × String)} {row : BitVec n × String} (hrow : row ∈ rows) (h : field = row.1)
include hrow h

theorem decodeFormat3_of_row {entry : BitVec n → Op3Entry} (hrows : ∀ r ∈ rows, (entry r.1).rejection = some (.outOfSubset r.2)) :
    decodeFormat3 (entry field) w = .outOfSubset row.2 :=
  decodeFormat3_of_rejection (h ▸ hrows row hrow)

theorem decodeFp_of_row {entry : BitVec n → OpfEntry} (hrows : ∀ r ∈ rows, (entry r.1).rejection = some (.outOfSubset r.2)) :
    decodeFp (entry field) w = .outOfSubset row.2 :=
  decodeFp_of_rejection (h ▸ hrows row hrow)

end

/-! ### Reserved fields (R97) -/

theorem decodeShift_of_reserved (mk : Reg → ShiftCount → Reg → Instr) (hreserved : fieldReserved w ≠ 0) :
    decodeShift mk w = .reservedFieldNonzero :=
  if_neg hreserved

theorem decodeOperand_of_reserved (mk : Reg → RegOrImm → Reg → Instr) (hi : fieldI w = false) (hreserved : fieldReserved w ≠ 0) :
    decodeOperand mk w = .reservedFieldNonzero := by
  rw [decodeOperand, if_neg (by simp [hi]), if_neg hreserved]

theorem decodeFormat3_of_isShift {entry : BitVec n → Op3Entry} (hcodes : ∀ c ∈ codes, (entry c).isShift = true) (h : field ∈ codes)
    (hreserved : fieldReserved w ≠ 0) : decodeFormat3 (entry field) w = .reservedFieldNonzero := by
  have he := hcodes field h
  cases hentry : entry field with
  | shift mk => exact decodeShift_of_reserved mk hreserved
  | _ => simp [hentry, Op3Entry.isShift] at he

theorem decodeFormat3_of_takesOperand {entry : BitVec n → Op3Entry} (hcodes : ∀ c ∈ codes, (entry c).takesOperand = true)
    (h : field ∈ codes) (hi : fieldI w = false) (hreserved : fieldReserved w ≠ 0) :
    decodeFormat3 (entry field) w = .reservedFieldNonzero := by
  have he := hcodes field h
  cases hentry : entry field with
  | operand mk => exact decodeOperand_of_reserved mk hi hreserved
  | shift mk => exact decodeShift_of_reserved mk hreserved
  | _ => simp [hentry, Op3Entry.takesOperand] at he

theorem decodeFp_of_isUnary {entry : BitVec n → OpfEntry} (hcodes : ∀ c ∈ codes, (entry c).isUnary = true) (h : field ∈ codes)
    (hrs1 : fieldRs1 w ≠ 0) : decodeFp (entry field) w = .reservedFieldNonzero := by
  have he := hcodes field h
  cases hentry : entry field with
  | unary mk => exact if_neg hrs1
  | _ => simp [hentry, OpfEntry.isUnary] at he

end

end Sys2Proof

namespace Sys2Proof.Machine

/-! ### The step on a rejected word (R97 to R99, R331) -/

section
variable {s : State} {w : Word} (h : s.fetches w)
include h

theorem State.fetches.step_of_illegal (hd : decode w = .illegal) : step s = .fault (.illegalInstruction s.pc s.npc w) := by
  rw [h.step_eq, runWord, hd]
  rfl

/-- An unassigned FPop is an FPop, and traps as unimplemented when the unit is enabled (R98, R324). -/
theorem State.fetches.step_of_unimplementedFPop (hd : decode w = .unimplementedFPop) (hef : s.psr.ef = true) :
    step s = .fault (.fpException s.pc s.npc .unimplementedFPop) := by
  rw [h.step_eq, runWord, hd]
  exact withFpu_of_enabled hef _

theorem State.fetches.step_of_reservedFieldNonzero (hd : decode w = .reservedFieldNonzero) : step s = .refused .reservedFieldNonzero := by
  rw [h.step_eq, runWord, hd]

theorem State.fetches.step_of_outOfSubset {name : String} (hd : decode w = .outOfSubset name) :
    step s = .refused (.outOfSubset name) := by
  rw [h.step_eq, runWord, hd]

end

/-! ### The obligations -/

/-- Settles O4: the opcode maps assign none of the `op2` and `op3` listed, and no `opf` but those listed. -/
theorem illegalWordsFault : Obligations.IllegalWordsFault := by
  refine fun s w h => ⟨fun hw => h.step_of_illegal ?illegal, fun hef hop hw => h.step_of_unimplementedFPop ?unimplemented hef⟩
  case illegal =>
    rcases hw with ⟨hop, hop2⟩ | ⟨hop, hop3⟩ | ⟨hop, hop3⟩
    · exact decode_of_op2_illegal hop hop2
    · exact (decode_of_op_two hop).trans (decodeFormat3_of_mem (by decide) hop3)
    · exact (decode_of_op_three hop).trans (decodeFormat3_of_mem (by decide) hop3)
  case unimplemented =>
    rcases hw with ⟨hop3, hopf⟩ | ⟨hop3, hopf⟩
    · rw [decode_of_fpop1 hop hop3, fpop1Entry_of_not_mem hopf, decodeFp]
    · rw [decode_of_fpop2 hop hop3, fpop2Entry_of_not_mem hopf, decodeFp]

/-- Settles O5: the opcode maps give every code listed its name. -/
theorem outOfSubsetRefused : Obligations.OutOfSubsetRefused := by
  refine fun s w h => ⟨fun hop hop2 => h.step_of_outOfSubset (decode_of_op2_coprocessor hop hop2),
    fun hop row hrow hop3 => h.step_of_outOfSubset ((decode_of_op_two hop).trans (decodeFormat3_of_row hrow hop3 ?arithmetic)),
    fun hop row hrow hop3 => h.step_of_outOfSubset ((decode_of_op_three hop).trans (decodeFormat3_of_row hrow hop3 ?memory)),
    fun hop hop3 row hrow hopf => h.step_of_outOfSubset ((decode_of_fpop1 hop hop3).trans (decodeFp_of_row hrow hopf ?fpop1)),
    fun hop hop3 row hrow hopf => h.step_of_outOfSubset ((decode_of_fpop2 hop hop3).trans (decodeFp_of_row hrow hopf ?fpop2))⟩
  case arithmetic => decide
  case memory => decide
  case fpop1 => decide
  case fpop2 => decide

/-- Settles O6: the codes listed are those of instructions in scope that leave the field unused. -/
theorem reservedFieldsRefused : Obligations.ReservedFieldsRefused := by
  refine fun s w h => ⟨fun hw hi hreserved => h.step_of_reservedFieldNonzero ?operand,
    fun hop hop3 _ hreserved => h.step_of_reservedFieldNonzero ?shift,
    fun hop hop3 hopf hrs1 => h.step_of_reservedFieldNonzero ?unary,
    fun hop hop3 hopf hrd => h.step_of_reservedFieldNonzero ?compare⟩
  case operand =>
    rcases hw with ⟨hop, hop3⟩ | ⟨hop, hop3⟩
    · exact (decode_of_op_two hop).trans (decodeFormat3_of_takesOperand (by decide) hop3 hi hreserved)
    · exact (decode_of_op_three hop).trans (decodeFormat3_of_takesOperand (by decide) hop3 hi hreserved)
  case shift => exact (decode_of_op_two hop).trans (decodeFormat3_of_isShift (by decide) hop3 hreserved)
  case unary => exact (decode_of_fpop1 hop hop3).trans (decodeFp_of_isUnary (by decide) hopf hrs1)
  case compare =>
    rw [decode_of_fpop2 hop hop3, hopf]
    exact if_neg hrd

end Sys2Proof.Machine

/-! PROOFS. The branches (spec 30_encoding.md R83, R89, R90; 45_branches.md R200; 48_fp_branches.md R290, R291): their words, the four
cases, and what stops them. -/

namespace Sys2Proof.Machine

/-! ### The words of the branches -/

theorem hasCond_integerBranch (cond : BitVec 4) (annul : Bool) (disp22 : BitVec 22) :
    HasCond (integerBranch cond annul disp22) 2 cond annul disp22 := by
  have hdecode := decode_wordBranch_integer cond annul disp22
  constructor <;> rw [encode_integerBranch]
  case decodes => exact hdecode
  all_goals simp

theorem hasCond_floatBranch (cond : BitVec 4) (annul : Bool) (disp22 : BitVec 22) :
    HasCond (floatBranch cond annul disp22) 6 cond annul disp22 := by
  have hdecode := decode_wordBranch_float cond annul disp22
  constructor <;> rw [encode_floatBranch]
  case decodes => exact hdecode
  all_goals simp

/-! ### The four cases of a branch (R200, R290) -/

/-- pc, npc and the hidden bits after a branch whose delay slot is annulled or not; the rest of the state stays. -/
theorem branchState_spec (s : State) (always annul taken : Bool) (disp22 : BitVec 22) {annulled : Bool}
    (h : annulled = (annul && (!taken || always))) :
    let t := branchState s always annul taken disp22
    (t.pc, t.npc) =
        (if taken then
          if annulled then (s.pc + 4 * disp22.signExtend 32, s.pc + 4 * disp22.signExtend 32 + 4)
          else (s.npc, s.pc + 4 * disp22.signExtend 32)
        else if annulled then (s.npc + 4, s.npc + 8) else (s.npc, s.npc + 4)) ∧
      t.inCondDelay = (!always && !annulled) ∧ t.afterFcmp = false ∧ OnlyChanged [] s t := by
  refine ⟨?counters, ?delay, ?fcmp, branch_state ..⟩
  all_goals subst h; cases taken <;> cases annul <;> cases always <;> rfl

/-! ### What stops a branch -/

section
variable {s : State}

theorem integerBranchTo_of_couple (h : s.inCondDelay = true) (always annul taken : Bool) (disp22 : BitVec 22) :
    integerBranchTo s always annul taken disp22 = .refused .dctiCouple := if_pos h

theorem floatBranchTo_of_couple (h : s.inCondDelay = true) (always annul taken : Bool) (disp22 : BitVec 22) :
    floatBranchTo s always annul taken disp22 = .refused .dctiCouple := if_pos h

theorem floatBranchTo_of_afterFcmp (hdelay : s.inCondDelay = false) (hcmp : s.afterFcmp = true) (always annul taken : Bool)
    (disp22 : BitVec 22) : floatBranchTo s always annul taken disp22 = .refused .fbfccAfterFcmp := by
  rw [floatBranchTo, withoutCouple, if_neg (by simp [hdelay]), if_pos hcmp]

end

/-! ### Each branch and its row of the tables of R89, R90, R201 and R291 -/

/-- The row says of the branch which `cond` it has and which test of the condition codes it makes. -/
structure IsIntegerRow (cond : BitVec 4) (mk : Bool → BitVec 22 → Instr) (test : Icc → Bool) : Prop where
  encoded : mk = integerBranch cond
  executed : ∀ s annul disp22, exec (mk annul disp22) s = integerBranchTo s (cond == 0x8) annul (test s.icc) disp22

/-- The row says of the branch which `cond` it has and under which relations it is taken. -/
structure IsFloatRow (cond : BitVec 4) (mk : Bool → BitVec 22 → Instr) (relations : List Fcc) : Prop where
  encoded : mk = floatBranch cond
  executed : ∀ s annul disp22, exec (mk annul disp22) s = floatBranchTo s (cond == 0x8) annul (decide (s.fcc ∈ relations)) disp22

/-! ### The obligations -/

/-- Settles O38: each row names the `cond` and the test of its branch, and the four cases are those of the one branch operation. -/
theorem integerBranchResults : Obligations.IntegerBranchResults := by
  intro row hrow
  have hrow : IsIntegerRow row.1 row.2.1 row.2.2 := by
    simp only [List.mem_cons, List.not_mem_nil, or_false] at hrow
    rcases hrow with rfl | rfl | rfl | rfl | rfl | rfl | rfl | rfl | rfl | rfl | rfl | rfl | rfl | rfl | rfl | rfl <;>
      exact ⟨rfl, fun _ _ _ => rfl⟩
  intro s annul disp22
  refine ⟨hrow.encoded ▸ hasCond_integerBranch .., fun hcouple => ?_, fun hdelay taken annulled htaken hannulled => ?_⟩
  · rw [hrow.executed, integerBranchTo_of_couple hcouple]
  · subst htaken
    exact ⟨_, (hrow.executed ..).trans ((integerBranchTo_eq_next_iff ..).2 ⟨hdelay, rfl⟩), branchState_spec _ _ _ _ _ hannulled⟩

/-- Settles O40: as for the integer branches, after the two refusals and the check of the unit. -/
theorem floatBranchResults : Obligations.FloatBranchResults := by
  intro row hrow
  have hrow : IsFloatRow row.1 row.2.1 row.2.2 := by
    simp only [List.mem_cons, List.not_mem_nil, or_false] at hrow
    rcases hrow with rfl | rfl | rfl | rfl | rfl | rfl | rfl | rfl | rfl | rfl | rfl | rfl | rfl | rfl | rfl | rfl <;>
      exact ⟨rfl, fun s _ _ => congrArg (floatBranchTo s _ _ · _) (by cases s.fcc <;> rfl)⟩
  intro s annul disp22
  refine ⟨hrow.encoded ▸ hasCond_floatBranch .., fun hcouple => ?_, fun hdelay hcmp => ?_, fun hdelay hcmp hef => ?_,
    fun hdelay hcmp hef taken annulled htaken hannulled => ?_⟩
  · rw [hrow.executed, floatBranchTo_of_couple hcouple]
  · rw [hrow.executed, floatBranchTo_of_afterFcmp hdelay hcmp]
  · rw [hrow.executed, floatBranchTo_of_disabled hef hdelay hcmp]
  · subst htaken
    exact ⟨_, (hrow.executed ..).trans ((floatBranchTo_eq_next_iff ..).2 ⟨hdelay, hcmp, hef, rfl⟩),
      branchState_spec _ _ _ _ _ hannulled⟩

end Sys2Proof.Machine

/-! PROOFS. The arithmetic instructions (spec 40_arithmetic.md R120 to R135): their words, the condition codes of addition and subtraction,
the halves of a product, and the clamped quotients. -/

namespace Sys2Proof.Machine

/-! ### The words of the operate instructions -/

/-- The encoding of an instruction with a register or immediate operand that stands in the map of `op = 2` (R84, R87). -/
theorem hasOpcode_of_operand {mk : Reg → RegOrImm → Reg → Instr} {op3 : BitVec 6} (hentry : arithmeticEntry op3 = .operand mk)
    {rs1 rd : Reg} {src2 : RegOrImm} (hencode : encode (mk rs1 src2 rd) = wordOperand 2 op3 rs1 src2 rd) :
    HasOpcode (mk rs1 src2 rd) 2 op3 := by
  constructor <;> rw [hencode]
  case op => exact fieldOp_wordOperand ..
  case op3 => exact fieldOp3_wordOperand ..
  case decodes => exact decode_wordOperand_arithmetic hentry ..

/-! ### The sign bit -/

theorem getLsbD_31_eq_msb (x : Word) : x.getLsbD 31 = x.msb := (BitVec.msb_eq_getLsbD_last x).symm

theorem getLsbD_31_eq_le (x : Word) : x.getLsbD 31 = decide (2 ^ 31 ≤ x.toNat) :=
  (getLsbD_31_eq_msb x).trans (BitVec.msb_eq_decide x)

theorem getLsbD_31_eq_neg (x : Word) : x.getLsbD 31 = decide (x.toInt < 0) := (getLsbD_31_eq_msb x).trans BitVec.msb_eq_toInt

/-! ### The condition codes of addition and subtraction (R133) -/

theorem outOfSignedRange_eq (x : Int) : outOfSignedRange x = decide (x < -2 ^ 31 ∨ 2 ^ 31 - 1 < x) :=
  (Bool.decide_or ..).symm

section
variable (a b : Word)

theorem iccAdd_eq : iccAdd a b = ⟨(a + b).getLsbD 31, decide (a + b = 0),
    decide (a.toInt + b.toInt < -2 ^ 31 ∨ 2 ^ 31 - 1 < a.toInt + b.toInt), decide (2 ^ 32 ≤ a.toNat + b.toNat)⟩ := by
  rw [iccAdd, outOfSignedRange_eq, iccOf]

theorem iccSub_eq : iccSub a b = ⟨(a - b).getLsbD 31, decide (a - b = 0),
    decide (a.toInt - b.toInt < -2 ^ 31 ∨ 2 ^ 31 - 1 < a.toInt - b.toInt), decide (a.toNat < b.toNat)⟩ := by
  rw [iccSub, outOfSignedRange_eq, iccOf]

theorem outOfSignedRange_add : outOfSignedRange (a.toInt + b.toInt) = a.saddOverflow b := by
  rw [outOfSignedRange_eq, BitVec.saddOverflow, ← Bool.decide_or]
  exact decide_eq_decide.2 (by omega)

theorem outOfSignedRange_sub : outOfSignedRange (a.toInt - b.toInt) = a.ssubOverflow b := by
  rw [outOfSignedRange_eq, BitVec.ssubOverflow, ← Bool.decide_or]
  exact decide_eq_decide.2 (by omega)

/-- Signed addition overflows exactly when operands of one sign give a result of the other. -/
theorem iccAdd_v : (iccAdd a b).v = (a.getLsbD 31 == b.getLsbD 31 && (iccAdd a b).n != a.getLsbD 31) := by
  rw [show (iccAdd a b).v = _ from outOfSignedRange_add a b, show (iccAdd a b).n = _ from getLsbD_31_eq_msb (a + b),
    getLsbD_31_eq_msb, getLsbD_31_eq_msb, BitVec.saddOverflow_eq]
  rfl

/-- Signed subtraction overflows exactly when operands of two signs give a result of the second one's. -/
theorem iccSub_v : (iccSub a b).v = (a.getLsbD 31 != b.getLsbD 31 && (iccSub a b).n != a.getLsbD 31) := by
  rw [show (iccSub a b).v = _ from outOfSignedRange_sub a b, show (iccSub a b).n = _ from getLsbD_31_eq_msb (a - b),
    getLsbD_31_eq_msb, getLsbD_31_eq_msb, BitVec.ssubOverflow_eq]
  cases a.msb <;> cases b.msb <;> simp

/-- The carry out of bit 31 from the sign bits of the operands and of the sum. -/
theorem iccAdd_c : (iccAdd a b).c =
    ((a.getLsbD 31 && b.getLsbD 31) || (!(iccAdd a b).n && (a.getLsbD 31 || b.getLsbD 31))) := by
  have hsum : (a + b).toNat = (a.toNat + b.toNat) % 2 ^ 32 := BitVec.toNat_add a b
  rw [Bool.eq_iff_iff]
  simp only [iccAdd, iccOf, getLsbD_31_eq_le, Bool.or_eq_true, Bool.and_eq_true, Bool.not_eq_true', decide_eq_true_eq,
    decide_eq_false_iff_not]
  omega

/-- The borrow from the sign bits of the operands and of the difference. -/
theorem iccSub_c : (iccSub a b).c =
    ((!a.getLsbD 31 && b.getLsbD 31) || ((iccSub a b).n && (!a.getLsbD 31 || b.getLsbD 31))) := by
  have hdiff : (a - b).toNat = (2 ^ 32 - b.toNat + a.toNat) % 2 ^ 32 := BitVec.toNat_sub a b
  rw [Bool.eq_iff_iff]
  simp only [iccSub, iccOf, getLsbD_31_eq_le, Bool.or_eq_true, Bool.and_eq_true, Bool.not_eq_true', decide_eq_true_eq,
    decide_eq_false_iff_not]
  omega

end

/-! ### The halves of a product (R134) -/

theorem toNat_lowWord (d : Dword) : (lowWord d).toNat = d.toNat % 2 ^ 32 := by
  simp [lowWord]

theorem toNat_highWord (d : Dword) : (highWord d).toNat = d.toNat / 2 ^ 32 := by
  have := d.isLt
  rw [highWord, BitVec.extractLsb'_toNat, Nat.shiftRight_eq_div_pow]
  omega

theorem lowWord_ofNat (n : Nat) : lowWord (BitVec.ofNat 64 n) = BitVec.ofNat 32 n := by
  apply BitVec.eq_of_toNat_eq
  rw [toNat_lowWord, BitVec.toNat_ofNat, BitVec.toNat_ofNat]
  omega

theorem highWord_ofNat (n : Nat) : highWord (BitVec.ofNat 64 n) = BitVec.ofNat 32 (n / 2 ^ 32) := by
  apply BitVec.eq_of_toNat_eq
  rw [toNat_highWord, BitVec.toNat_ofNat, BitVec.toNat_ofNat]
  omega

theorem lowWord_ofInt (x : Int) : lowWord (BitVec.ofInt 64 x) = BitVec.ofInt 32 x := by
  apply BitVec.eq_of_toNat_eq
  rw [toNat_lowWord, BitVec.toNat_ofInt, BitVec.toNat_ofInt]
  omega

/-- The high half of a two's complement pattern is the floor of the quotient, for negative numbers too. -/
theorem highWord_ofInt (x : Int) : highWord (BitVec.ofInt 64 x) = BitVec.ofInt 32 (x / 2 ^ 32) := by
  apply BitVec.eq_of_toNat_eq
  rw [toNat_highWord, BitVec.toNat_ofInt, BitVec.toNat_ofInt]
  omega

/-! ### Clamped quotients (R135) -/

section
variable (y a b : Word)

/-- The quotient clamped to the largest unsigned word. -/
theorem udivResult_eq : udivResult y a b = BitVec.ofNat 32 (min (udivQuotient y a b) (2 ^ 32 - 1)) := by
  unfold udivResult
  split
  · next h => rw [min_eq_right h.le]; rfl
  · next h => rw [min_eq_left (not_lt.1 h)]

/-- The quotient clamped to the signed words. -/
theorem sdivResult_eq : sdivResult y a b = BitVec.ofInt 32 (max (-2 ^ 31) (min (sdivQuotient y a b) (2 ^ 31 - 1))) := by
  unfold sdivResult
  split
  · next h => rw [min_eq_right h.le]; rfl
  · next h =>
    rw [min_eq_left (not_lt.1 h)]
    split
    · next h' => rw [max_eq_left h'.le]; rfl
    · next h' => rw [max_eq_right (not_lt.1 h')]

theorem udivQuotient_eq : udivQuotient y a b = (y.toNat * 2 ^ 32 + a.toNat) / b.toNat := by
  rw [udivQuotient, joinWords_toNat]

theorem joinWords_toInt (hi lo : Word) : (joinWords hi lo).toInt = hi.toInt * 2 ^ 32 + lo.toNat := by
  rw [mul_comm]
  exact BitVec.toInt_append

theorem sdivQuotient_eq : sdivQuotient y a b = (y.toInt * 2 ^ 32 + a.toNat).tdiv b.toInt := by
  rw [sdivQuotient, joinWords_toInt]

/-- Away from the boundary of U7, the signed divide reports overflow exactly when the quotient was clamped (log 9). -/
theorem sdivOverflow_of_not_boundary
    (h : ¬(sdivQuotient y a b = -2 ^ 31 ∧ sdivQuotient y a b * b.toInt ≠ (joinWords y a).toInt)) :
    sdivOverflow y a b = outOfSignedRange (sdivQuotient y a b) := by
  rw [sdivOverflow, sdivAtBoundary, ← Bool.decide_and, decide_eq_false h]
  rfl

/-- A value clamped to the signed words is the value of its word. -/
theorem toInt_ofInt_clamped (q : Int) :
    (BitVec.ofInt 32 (max (-2 ^ 31) (min q (2 ^ 31 - 1)))).toInt = max (-2 ^ 31) (min q (2 ^ 31 - 1)) :=
  BitVec.toInt_ofInt_eq_self (by decide) (by omega) (by omega)

theorem getLsbD_31_sdivResult : (sdivResult y a b).getLsbD 31 = decide (sdivQuotient y a b < 0) := by
  rw [getLsbD_31_eq_neg, sdivResult_eq, toInt_ofInt_clamped]
  exact decide_eq_decide.2 (by omega)

theorem sdivResult_eq_zero : sdivResult y a b = 0 ↔ sdivQuotient y a b = 0 := by
  rw [← BitVec.toInt_inj, sdivResult_eq, toInt_ofInt_clamped, show (0 : Word).toInt = 0 from rfl]
  omega

theorem udivResult_eq_zero : udivResult y a b = 0 ↔ min (udivQuotient y a b) (2 ^ 32 - 1) = 0 := by
  rw [udivResult_eq, ← BitVec.toNat_inj, BitVec.toNat_ofNat, show (0 : Word).toNat = 0 from rfl]
  omega

end

/-! ### The check of the divisor (R330) -/

section
variable {s : State} {b : Word} {k : Result}

theorem withDivisor_of_zero (h : b = 0) : withDivisor s b k = .fault (.divisionByZero s.pc s.npc) := if_pos h

/-- With a divisor other than 0 a divide answers what follows the check. -/
theorem answers_of_withDivisor {i : Instr} {P : State → Prop} (hexec : exec i s = withDivisor s b k) (hne : b ≠ 0)
    (h : ∃ t, k = .next t ∧ P t) : Answers i s P := by
  rw [Answers, hexec, withDivisor, if_neg hne]
  exact h

end

/-! ### The obligations -/

/-- Settles O3: the words are closed, and the decoder is run on each. -/
theorem specWordsDecode : Obligations.SpecWordsDecode := by
  unfold Obligations.SpecWordsDecode
  decide

/-- Settles O24: both are the one ending of an instruction without `cc`. -/
theorem addSubResults : Obligations.AddSubResults := fun _ _ _ _ =>
  ⟨hasOpcode_of_operand rfl rfl, hasOpcode_of_operand rfl rfl, writeResult_answers .., writeResult_answers ..⟩

/-- Settles O25: the condition codes by definition, and the bit formulas from those of the library for overflow. -/
theorem addccSubccResults : Obligations.AddccSubccResults := by
  refine fun s rs1 rd src2 => ⟨hasOpcode_of_operand rfl rfl, hasOpcode_of_operand rfl rfl, ?add, ?sub⟩
  case add =>
    obtain ⟨t, ht, hreg, hicc, hadvance, honly⟩ :=
      writeResultCc_answers s rd (s.reg rs1 + s.op2 src2) (iccAdd (s.reg rs1) (s.op2 src2))
    refine ⟨t, ht, hreg, ?_, ?_, ?_, hadvance, honly⟩ <;> rw [hicc]
    · exact iccAdd_eq ..
    · exact iccAdd_v ..
    · exact iccAdd_c ..
  case sub =>
    obtain ⟨t, ht, hreg, hicc, hadvance, honly⟩ :=
      writeResultCc_answers s rd (s.reg rs1 - s.op2 src2) (iccSub (s.reg rs1) (s.op2 src2))
    refine ⟨t, ht, hreg, ?_, ?_, ?_, hadvance, honly⟩ <;> rw [hicc]
    · exact iccSub_eq ..
    · exact iccSub_v ..
    · exact iccSub_c ..

/-- Settles O26: the halves of the exact product, for each of the four. -/
theorem multiplyResults : Obligations.MultiplyResults := by
  refine fun s rs1 rd src2 => ⟨hasOpcode_of_operand rfl rfl, hasOpcode_of_operand rfl rfl, hasOpcode_of_operand rfl rfl,
    hasOpcode_of_operand rfl rfl, ?umul, ?umulcc, ?smul, ?smulcc⟩
  case umul =>
    rw [← lowWord_ofNat, ← highWord_ofNat]
    exact writeResult_y_answers ..
  case umulcc =>
    rw [← lowWord_ofNat, ← highWord_ofNat]
    exact writeResultCc_y_answers ..
  case smul =>
    rw [← lowWord_ofInt, ← highWord_ofInt]
    exact writeResult_y_answers ..
  case smulcc =>
    rw [← lowWord_ofInt, ← highWord_ofInt]
    exact writeResultCc_y_answers ..

/-- Settles O27: past the check of the divisor, both write the clamped quotient. -/
theorem unsignedDivideResults : Obligations.UnsignedDivideResults := by
  refine fun s rs1 rd src2 q => ⟨hasOpcode_of_operand rfl rfl, hasOpcode_of_operand rfl rfl, fun hne hq => ?answers,
    fun hzero => ⟨withDivisor_of_zero hzero, withDivisor_of_zero hzero⟩⟩
  rw [← udivQuotient_eq] at hq
  subst hq
  rw [← udivResult_eq]
  constructor
  case left => exact answers_of_withDivisor rfl hne (writeResult_answers ..)
  case right =>
    obtain ⟨t, ht, hreg, hicc, hadvance, honly⟩ := writeResultCc_answers s rd (udivResult s.y (s.reg rs1) (s.op2 src2))
      (iccDiv (udivResult s.y (s.reg rs1) (s.op2 src2)) (udivOverflow s.y (s.reg rs1) (s.op2 src2)))
    refine answers_of_withDivisor rfl hne ⟨t, ht, hreg, hicc.trans ?_, hadvance, honly⟩
    simp only [iccDiv, iccOf, udivOverflow, udivResult_eq_zero]

/-- Settles O28: as for the unsigned divides; the overflow is that of the exact quotient away from the boundary of U7. -/
theorem signedDivideResults : Obligations.SignedDivideResults := by
  refine fun s rs1 rd src2 dividend q => ⟨hasOpcode_of_operand rfl rfl, hasOpcode_of_operand rfl rfl, fun hne hdividend hq => ?answers,
    withDivisor_of_zero⟩
  rw [hdividend, ← sdivQuotient_eq] at hq
  rw [← joinWords_toInt] at hdividend
  subst hq hdividend
  rw [← sdivResult_eq]
  constructor
  case left => exact answers_of_withDivisor rfl hne (writeResult_answers ..)
  case right =>
    obtain ⟨t, ht, hreg, hicc, hadvance, honly⟩ := writeResultCc_answers s rd (sdivResult s.y (s.reg rs1) (s.op2 src2))
      (iccDiv (sdivResult s.y (s.reg rs1) (s.op2 src2)) (sdivOverflow s.y (s.reg rs1) (s.op2 src2)))
    refine answers_of_withDivisor rfl hne ⟨t, ht, hreg, ?n, ?z, ?c, fun hboundary => ?v, hadvance, honly⟩ <;> rw [hicc]
    case n => exact getLsbD_31_sdivResult ..
    case z => exact decide_eq_decide.2 (sdivResult_eq_zero ..)
    case c => rfl
    case v => exact (sdivOverflow_of_not_boundary _ _ _ hboundary).trans (outOfSignedRange_eq _)

end Sys2Proof.Machine

/-! PROOFS. The logical instructions (spec 41_logical.md R140 to R152): each ends as an operate instruction does, with its bitwise result
and, in the `cc` form, with V and C clear. -/

namespace Sys2Proof.Machine

/-- The ending of a logical `cc` instruction, with the condition codes of its result written out (R140). -/
theorem writeResultCc_iccLogic_answers (s : State) (rd : Reg) (res : Word) :
    ∃ t, writeResultCc s rd res (iccLogic res) = .next t ∧ WroteRegister s.cwp rd res s t ∧
      t.icc = ⟨res.getLsbD 31, decide (res = 0), false, false⟩ ∧ Advances s t ∧ OnlyChanged [.registers, .icc] s t :=
  writeResultCc_answers s rd res (iccLogic res)

/-! ### The obligations -/

/-- Settles O30: the bitwise result is written as by every instruction without `cc`; `xnor` complements its second operand, which
complements the result (R151). -/
theorem logicalResults : Obligations.LogicalResults := by
  refine fun s rs1 rd src2 => ⟨hasOpcode_of_operand rfl rfl, hasOpcode_of_operand rfl rfl, hasOpcode_of_operand rfl rfl,
    hasOpcode_of_operand rfl rfl, hasOpcode_of_operand rfl rfl, hasOpcode_of_operand rfl rfl, writeResult_answers ..,
    writeResult_answers .., writeResult_answers .., writeResult_answers .., writeResult_answers .., ?xnor⟩
  case xnor =>
    rw [BitVec.not_xor_right]
    exact writeResult_answers ..

/-- Settles O31: the results of O30, written by the ending of the `cc` forms. -/
theorem logicalCcResults : Obligations.LogicalCcResults := by
  refine fun s rs1 rd src2 => ⟨hasOpcode_of_operand rfl rfl, hasOpcode_of_operand rfl rfl, hasOpcode_of_operand rfl rfl,
    hasOpcode_of_operand rfl rfl, hasOpcode_of_operand rfl rfl, hasOpcode_of_operand rfl rfl, writeResultCc_iccLogic_answers ..,
    writeResultCc_iccLogic_answers .., writeResultCc_iccLogic_answers .., writeResultCc_iccLogic_answers ..,
    writeResultCc_iccLogic_answers .., ?xnorcc⟩
  case xnorcc =>
    rw [BitVec.not_xor_right]
    exact writeResultCc_iccLogic_answers ..

end Sys2Proof.Machine

/-! PROOFS. The shifts (spec 42_shifts.md R160 to R163): their words, the count, and each shifted word as an arithmetic operation by a power
of two. -/

namespace Sys2Proof.Machine

/-! ### The words of the shifts -/

theorem fieldOp_wordShift (op3 : BitVec 6) (rs1 rd : Reg) (count : ShiftCount) : fieldOp (wordShift op3 rs1 count rd) = 2 := by
  cases count <;> simp

theorem fieldOp3_wordShift (op3 : BitVec 6) (rs1 rd : Reg) (count : ShiftCount) : fieldOp3 (wordShift op3 rs1 count rd) = op3 := by
  cases count <;> simp

/-- The encoding of an instruction that stands as a shift in the map of `op = 2` (R87, R96). -/
theorem hasOpcode_of_shift {mk : Reg → ShiftCount → Reg → Instr} {op3 : BitVec 6} (hentry : arithmeticEntry op3 = .shift mk)
    {rs1 rd : Reg} {count : ShiftCount} (hencode : encode (mk rs1 count rd) = wordShift op3 rs1 count rd) :
    HasOpcode (mk rs1 count rd) 2 op3 := by
  constructor <;> rw [hencode]
  case op => exact fieldOp_wordShift ..
  case op3 => exact fieldOp3_wordShift ..
  case decodes => exact decode_wordShift hentry ..

/-! ### Shifting by `n` is arithmetic on `2 ^ n` (R161 to R163) -/

section
variable (a : Word) (n : Nat)

theorem shiftLeft_eq_ofNat_mul : a <<< n = BitVec.ofNat 32 (a.toNat * 2 ^ n) := by
  apply BitVec.eq_of_toNat_eq
  rw [BitVec.toNat_shiftLeft, Nat.shiftLeft_eq, BitVec.toNat_ofNat]

theorem ushiftRight_eq_ofNat_div : a >>> n = BitVec.ofNat 32 (a.toNat / 2 ^ n) := by
  rw [← Nat.shiftRight_eq_div_pow, ← BitVec.toNat_ushiftRight, BitVec.ofNat_toNat, BitVec.setWidth_eq]

/-- Copies of the sign entering from the left are the floor of the quotient, for negative words too. -/
theorem sshiftRight_eq_ofInt_div : a.sshiftRight n = BitVec.ofInt 32 (a.toInt / 2 ^ n) := by
  rw [BitVec.sshiftRight, Int.shiftRight_eq_div_pow, Nat.cast_pow, Nat.cast_ofNat]

end

/-! ### The obligation -/

/-- Settles O32: `n` is the model's count, and each shifted word is written as by every instruction without `cc`. -/
theorem shiftResults : Obligations.ShiftResults := by
  refine fun s rs1 rd count n => ⟨hasOpcode_of_shift rfl rfl, hasOpcode_of_shift rfl rfl, hasOpcode_of_shift rfl rfl,
    fun hn => ?answers⟩
  have hcount : n = s.shiftCount count := by
    cases count with
    | reg rs2 => exact hn.trans (s.shiftCount_reg rs2).symm
    | imm shcnt => exact hn
  rw [hcount, ← shiftLeft_eq_ofNat_mul, ← ushiftRight_eq_ofNat_div, ← sshiftRight_eq_ofInt_div]
  exact ⟨writeResult_answers .., writeResult_answers .., writeResult_answers ..⟩

end Sys2Proof.Machine

/-! PROOFS. `sethi` and `nop` (spec 43_miscellaneous.md R170, R171): the constant that `sethi` writes, the one word of `nop`, and how each
ends. -/

namespace Sys2Proof.Machine

/-- Ten zero bits under the immediate multiply it by 2^10 (R170). -/
theorem append_zero_eq_ofNat_mul (imm22 : BitVec 22) : imm22 ++ 0#10 = BitVec.ofNat 32 (imm22.toNat * 1024) := by
  have hfits : imm22.toNat * 1024 < 2 ^ 32 := by omega
  apply BitVec.eq_of_toNat_eq
  calc
    (imm22 ++ 0#10).toNat = imm22.toNat * 1024 + 0 := toNat_append_eq imm22 0#10
    _ = (BitVec.ofNat 32 (imm22.toNat * 1024)).toNat := by rw [BitVec.toNat_ofNat, Nat.mod_eq_of_lt hfits, Nat.add_zero]

/-- `nop` is the `sethi` word with both fields 0 (R171). -/
theorem wordSethi_zero_zero : wordSethi 0 0 = 0x01000000 := by decide

theorem decode_nop_word : decode 0x01000000 = .instr .nop := by
  rw [← wordSethi_zero_zero, decode_wordSethi, if_pos ⟨rfl, rfl⟩]

/-- `sethi` ends as every instruction without `cc` does. -/
theorem sethi_answers (s : State) (imm22 : BitVec 22) (rd : Reg) :
    Answers (.sethi imm22 rd) s (fun t =>
      WroteRegister s.cwp rd (BitVec.ofNat 32 (imm22.toNat * 1024)) s t ∧ Advances s t ∧ OnlyChanged [.registers] s t) := by
  rw [← append_zero_eq_ofNat_mul]
  exact writeResult_answers s rd (imm22 ++ 0#10)

theorem nop_answers (s : State) : Answers .nop s (fun t => Advances s t ∧ OnlyChanged [] s t) :=
  ⟨s.advance, rfl, advances_advance s, Ending.nothing.onlyChanged⟩

/-- Settles O33: the fields of the word of `sethi`, the one word of `nop`, and the next state of each. -/
theorem sethiNopResults : Obligations.SethiNopResults := fun s imm22 rd =>
  ⟨fieldOp_wordSethi imm22 rd, fieldOp2_wordSethi imm22 rd, fieldImm22_wordSethi imm22 rd, fieldRd_wordSethi imm22 rd,
    wordSethi_zero_zero, wordSethi_zero_zero, decode_nop_word, sethi_answers s imm22 rd, nop_answers s⟩

end Sys2Proof.Machine

/-! PROOFS. `save`, `restore`, `call` and `jmpl` (spec 44_control.md R180 to R184): the change of window and its trap, and the delayed jumps
that link. -/

namespace Sys2Proof.Machine

/-! ### The change of window -/

section
variable {s : State} {i : Instr} {new : BitVec 5} {trap : Word → Word → Fault} {rs1 rd : Reg} {src2 : RegOrImm}

/-- Into a window that WIM does not mark, the sum is written across the move (R180, R181). -/
theorem answers_of_changeWindow (hexec : exec i s = changeWindow s new trap rs1 src2 rd) (hvalid : s.wim.getLsbD new.toNat = false) :
    Answers i s (fun t =>
      t.cwp = new ∧ WroteRegister new rd (s.reg rs1 + s.op2 src2) s t ∧ Advances s t ∧ OnlyChanged [.registers, .window] s t) :=
  ⟨_, hexec.trans ((changeWindow_eq_next_iff ..).2 ⟨hvalid, rfl⟩), changeWindow_state ..⟩

/-- Into a window that WIM marks, the move traps (R325, R326). -/
theorem changeWindow_of_marked (hmarked : s.wim.getLsbD new.toNat = true) :
    changeWindow s new trap rs1 src2 rd = .fault (trap s.pc s.npc) := if_pos hmarked

end

/-! ### The delayed jumps that link -/

section
variable {s : State} {k : Result} {rs1 rd : Reg} {src2 : RegOrImm}

theorem withoutCouple_of_couple (h : s.inCondDelay = true) : withoutCouple s k = .refused .dctiCouple := if_pos h

theorem withoutCouple_of_not_couple (h : s.inCondDelay = false) : withoutCouple s k = k := if_neg (by simp [h])

/-- How `call` and `jmpl` end. -/
theorem answers_of_jump {i : Instr} {target : Word} (hexec : exec i s = .next ((s.setReg rd s.pc).jumpDelayed target)) :
    Answers i s (fun t => WroteRegister s.cwp rd s.pc s t ∧ JumpsDelayed target s t ∧ OnlyChanged [.registers] s t) :=
  ⟨_, hexec, jump_state s rd target⟩

/-- Outside a conditional delay slot, `jmpl` to a multiple of 4 jumps (R183). -/
theorem execJmpl_of_aligned (hdelay : s.inCondDelay = false) (haligned : (s.ea rs1 src2).toNat % 4 = 0) :
    execJmpl rs1 src2 rd s = .next ((s.setReg rd s.pc).jumpDelayed (s.ea rs1 src2)) := by
  rw [execJmpl, withoutCouple_of_not_couple hdelay, if_neg (not_not_intro haligned)]

/-- Outside a conditional delay slot, `jmpl` to any other target traps (R183, R327). -/
theorem execJmpl_of_misaligned (hdelay : s.inCondDelay = false) (hmisaligned : (s.ea rs1 src2).toNat % 4 ≠ 0) :
    execJmpl rs1 src2 rd s = .fault (.memAddressNotAligned s.pc s.npc (s.ea rs1 src2)) := by
  rw [execJmpl, withoutCouple_of_not_couple hdelay, if_pos hmisaligned, raise]

/-- The target of `call` as a number modulo 2^32, where the displacement needs no sign (R95, R182). -/
theorem callTarget_eq_ofNat (s : State) (disp30 : BitVec 30) : callTarget s disp30 = BitVec.ofNat 32 (s.pc.toNat + 4 * disp30.toNat) := by
  apply BitVec.eq_of_toNat_eq
  simp [callTarget]

end

/-! ### The obligations -/

/-- Settles O34: both are the one change of window, to the window below or above. -/
theorem saveRestoreResults : Obligations.SaveRestoreResults := by
  refine fun s rs1 rd src2 below above => ⟨hasOpcode_of_operand rfl rfl, hasOpcode_of_operand rfl rfl, ?save, ?restore, rfl, rfl⟩
  case save =>
    rintro rfl
    exact ⟨answers_of_changeWindow rfl, changeWindow_of_marked⟩
  case restore =>
    rintro rfl
    exact ⟨answers_of_changeWindow rfl, changeWindow_of_marked⟩

/-- Settles O36. -/
theorem callResult : Obligations.CallResult := by
  refine fun s disp30 => ⟨fieldOp_wordCall disp30, fieldDisp30_wordCall disp30, decode_wordCall disp30, fun hdelay => ?jump,
    withoutCouple_of_couple⟩
  rw [← callTarget_eq_ofNat]
  exact answers_of_jump (withoutCouple_of_not_couple hdelay)

/-- Settles O37: the target is the effective address, and the check of the delay slot comes before its alignment. -/
theorem jmplResult : Obligations.JmplResult := by
  rintro s rs1 rd src2 target rfl
  exact ⟨hasOpcode_of_operand rfl rfl, fun hdelay haligned => answers_of_jump (execJmpl_of_aligned hdelay haligned),
    execJmpl_of_misaligned, withoutCouple_of_couple⟩

end Sys2Proof.Machine

/-! PROOFS. The branches after `subcc` (spec 45_branches.md R201): the relation between the operands that each test of the condition codes
decides, and where each branch goes when it is taken by that relation. -/

namespace Sys2Proof.Machine

/-! ### The tests of R201 on the condition codes of `x - y` -/

/-- The negated test decides the complementary relation. -/
theorem not_eq_decide {b : Bool} {p q : Prop} [Decidable p] [Decidable q] (h : b = decide p) (hpq : ¬p ↔ q) : (!b) = decide q := by
  rw [h, ← decide_not]
  exact decide_eq_decide.2 hpq

section
variable (x y : Word)

theorem iccSub_n_eq : (iccSub x y).n = (x - y).getLsbD 31 := rfl

theorem iccSub_v_eq : (iccSub x y).v = decide (x.toInt - y.toInt < -2 ^ 31 ∨ 2 ^ 31 - 1 < x.toInt - y.toInt) :=
  outOfSignedRange_eq _

theorem iccSub_c_eq : (iccSub x y).c = decide (x.toNat < y.toNat) := rfl

theorem iccSub_z_eq : (iccSub x y).z = (x == y) := by
  rw [iccSub_eq, beq_eq_decide]
  exact decide_eq_decide.2 sub_eq_zero

/-- Without overflow the difference has its exact sign; with overflow it has the other one. -/
theorem iccSub_n_xor_v : ((iccSub x y).n ^^ (iccSub x y).v) = decide (x.toInt < y.toInt) := by
  have hdiff : (x - y).toInt = (x.toInt - y.toInt).bmod (2 ^ 32) := BitVec.toInt_sub
  have hx := x.toInt_lt
  have hx' := x.le_toInt
  have hy := y.toInt_lt
  have hy' := y.le_toInt
  rw [iccSub_eq, getLsbD_31_eq_neg, Bool.eq_iff_iff]
  simp only [Bool.xor_iff_ne, ne_eq, decide_eq_decide, decide_eq_true_eq, hdiff, Int.bmod]
  omega

theorem iccSub_z_or_n_xor_v : ((iccSub x y).z || ((iccSub x y).n ^^ (iccSub x y).v)) = decide (x.toInt ≤ y.toInt) := by
  rw [iccSub_n_xor_v, iccSub_z_eq, beq_eq_decide, ← Bool.decide_or]
  exact decide_eq_decide.2 (by rw [← BitVec.toInt_inj]; omega)

theorem iccSub_c_or_z : ((iccSub x y).c || (iccSub x y).z) = decide (x.toNat ≤ y.toNat) := by
  rw [iccSub_z_eq, beq_eq_decide, iccSub_eq, ← Bool.decide_or]
  exact decide_eq_decide.2 (by rw [← BitVec.toNat_inj]; omega)

end

/-! ### Where a branch without annul goes -/

/-- With `a = 0` the delay slot is always executed: only npc depends on the test (R200). -/
theorem branchState_of_not_annul (s : State) (always taken : Bool) (disp22 : BitVec 22) :
    let t := branchState s always false taken disp22
    t.pc = s.npc ∧ t.npc = if taken then s.pc + 4 * disp22.signExtend 32 else s.npc + 4 := by
  obtain ⟨hcounters, -⟩ := branchState_spec s always false taken disp22 (annulled := false) rfl
  cases taken <;> exact Prod.mk.inj hcounters

/-- What `subcc` leaves for the branch after it: the condition codes of its operands, outside any conditional delay slot (R29, R123). -/
theorem subcc_next {s t : State} {rs1 rd : Reg} {src2 : RegOrImm} (h : exec (.subcc rs1 src2 rd) s = .next t) :
    t.icc = iccSub (s.reg rs1) (s.op2 src2) ∧ t.inCondDelay = false := by
  obtain rfl := (writeResultCc_eq_next_iff ..).1 h
  exact ⟨rfl, rfl⟩

/-- The row says of the branch under which relation between the operands of the `subcc` before it its test holds. -/
def IsRelationRow (mk : Bool → BitVec 22 → Instr) (relation : Word → Word → Bool) : Prop :=
  ∃ cond test, IsIntegerRow cond mk test ∧ ∀ x y, test (iccSub x y) = relation x y

/-- A branch of such a row, after `subcc`, goes by its relation. -/
theorem IsRelationRow.answers {mk : Bool → BitVec 22 → Instr} {relation : Word → Word → Bool} (hrow : IsRelationRow mk relation)
    {t : State} {x y : Word} (hicc : t.icc = iccSub x y) (hdelay : t.inCondDelay = false) (disp22 : BitVec 22) :
    Answers (mk false disp22) t (fun u =>
      u.pc = t.npc ∧ u.npc = if relation x y then t.pc + 4 * disp22.signExtend 32 else t.npc + 4) := by
  obtain ⟨cond, test, hinteger, htest⟩ := hrow
  rw [← htest, ← hicc]
  exact ⟨_, (hinteger.executed ..).trans ((integerBranchTo_eq_next_iff ..).2 ⟨hdelay, rfl⟩), branchState_of_not_annul ..⟩

/-! ### The obligation -/

/-- Settles O39: each branch is the integer branch of its `cond`, and its test of the condition codes of `x - y` is the relation of R201. -/
theorem branchAfterSubcc : Obligations.BranchAfterSubcc := by
  intro row hrow
  have hrow : IsRelationRow row.1 row.2 := by
    simp only [List.mem_cons, List.not_mem_nil, or_false] at hrow
    rcases hrow with rfl | rfl | rfl | rfl | rfl | rfl | rfl | rfl | rfl | rfl | rfl | rfl | rfl | rfl | rfl | rfl
    · exact ⟨0x9, fun c => !c.z, ⟨rfl, fun _ _ _ => rfl⟩, fun x y => congrArg not (iccSub_z_eq x y)⟩
    · exact ⟨0x1, fun c => c.z, ⟨rfl, fun _ _ _ => rfl⟩, iccSub_z_eq⟩
    · exact ⟨0xA, fun c => !(c.z || (c.n ^^ c.v)), ⟨rfl, fun _ _ _ => rfl⟩, fun x y => not_eq_decide (iccSub_z_or_n_xor_v x y) not_le⟩
    · exact ⟨0x2, fun c => c.z || (c.n ^^ c.v), ⟨rfl, fun _ _ _ => rfl⟩, iccSub_z_or_n_xor_v⟩
    · exact ⟨0xB, fun c => !(c.n ^^ c.v), ⟨rfl, fun _ _ _ => rfl⟩, fun x y => not_eq_decide (iccSub_n_xor_v x y) not_lt⟩
    · exact ⟨0x3, fun c => c.n ^^ c.v, ⟨rfl, fun _ _ _ => rfl⟩, iccSub_n_xor_v⟩
    · exact ⟨0xC, fun c => !(c.c || c.z), ⟨rfl, fun _ _ _ => rfl⟩, fun x y => not_eq_decide (iccSub_c_or_z x y) not_le⟩
    · exact ⟨0x4, fun c => c.c || c.z, ⟨rfl, fun _ _ _ => rfl⟩, iccSub_c_or_z⟩
    · exact ⟨0xD, fun c => !c.c, ⟨rfl, fun _ _ _ => rfl⟩, fun x y => not_eq_decide (iccSub_c_eq x y) not_lt⟩
    · exact ⟨0x5, fun c => c.c, ⟨rfl, fun _ _ _ => rfl⟩, iccSub_c_eq⟩
    · exact ⟨0xE, fun c => !c.n, ⟨rfl, fun _ _ _ => rfl⟩, fun x y => congrArg not (iccSub_n_eq x y)⟩
    · exact ⟨0x6, fun c => c.n, ⟨rfl, fun _ _ _ => rfl⟩, iccSub_n_eq⟩
    · exact ⟨0xF, fun c => !c.v, ⟨rfl, fun _ _ _ => rfl⟩, fun x y => not_eq_decide (iccSub_v_eq x y) (by omega)⟩
    · exact ⟨0x7, fun c => c.v, ⟨rfl, fun _ _ _ => rfl⟩, iccSub_v_eq⟩
    · exact ⟨0x8, fun _ => true, ⟨rfl, fun _ _ _ => rfl⟩, fun _ _ => rfl⟩
    · exact ⟨0x0, fun _ => false, ⟨rfl, fun _ _ _ => rfl⟩, fun _ _ => rfl⟩
  intro s t rs1 rd src2 disp22 hsubcc
  obtain ⟨hicc, hdelay⟩ := subcc_next hsubcc
  exact hrow.answers hicc hdelay disp22

end Sys2Proof.Machine

/-! PROOFS. The integer loads and stores (spec 46_load_store.md R230 to R240): their words, the checks before an access, the registers that
loads write, and the bytes that stores write. -/

namespace Sys2Proof.Machine

/-! ### The words of the loads and stores -/

/-- The encoding of an instruction that stands in the map of `op = 3` (R84, R88). -/
theorem hasOpcode_of_memoryOperand {mk : Reg → RegOrImm → Reg → Instr} {op3 : BitVec 6} (hentry : memoryEntry op3 = .operand mk)
    {rs1 rd : Reg} {src2 : RegOrImm} (hencode : encode (mk rs1 src2 rd) = wordOperand 3 op3 rs1 src2 rd) :
    HasOpcode (mk rs1 src2 rd) 3 op3 := by
  constructor <;> rw [hencode]
  case op => exact fieldOp_wordOperand ..
  case op3 => exact fieldOp3_wordOperand ..
  case decodes => exact decode_wordOperand_memory hentry ..

/-! ### The checks before an access (R230) -/

section
variable {s : State} {i : Instr} {ea : Word} {size : Nat} {rd : Reg} {k : Result}

theorem withAccess_of_loadable (h : s.loadable ea size) : withAccess s ea size k = k := by
  obtain ⟨haligned, hmapped⟩ := (s.loadable_iff ea size).1 h
  rw [withAccess, if_neg (not_not_intro haligned), if_pos hmapped]

theorem withEvenRd_of_even (h : rd.toNat % 2 = 0) : withEvenRd s i rd k = k := by
  rw [withEvenRd, isEven_eq, if_pos (decide_eq_true h)]

/-- An odd `rd` is found before the address is looked at (R236, R240, R323). -/
theorem withEvenRd_of_odd (h : rd.toNat % 2 = 1) :
    withEvenRd s i rd k = .fault (.illegalInstruction s.pc s.npc (encode i)) := by
  rw [withEvenRd, isEven_eq, if_neg (by simp [h]), raise]

/-! ### Loads -/

/-- A permitted load writes its value to `r[rd]`. -/
theorem answers_of_loadInto {v : Word} (hexec : exec i s = loadInto s ea size rd v) (h : s.loadable ea size) :
    Answers i s (fun t => WroteRegister s.cwp rd v s t ∧ Advances s t ∧ OnlyChanged [.registers] s t) :=
  ⟨_, hexec.trans (withAccess_of_loadable h), load_state s rd v⟩

theorem Memory.highWord_readDword (m : Memory) (a : Word) : highWord (m.readDword a) = m.readWord a := highWord_joinWords ..

theorem Memory.lowWord_readDword (m : Memory) (a : Word) : lowWord (m.readDword a) = m.readWord (a + 4) := lowWord_joinWords ..

/-- The registers `rd` and `rd + 1` hold `hi` and `lo`, and every other cell what it held; `hi` is discarded when `rd = 0` (R236). -/
def WrotePair (rd : Reg) (hi lo : Word) (s t : State) : Prop :=
  ∀ c, t.readCell c =
    if c = s.cellIn s.cwp (rd + 1) then lo else if rd ≠ 0 ∧ c = s.cellIn s.cwp rd then hi else s.readCell c

/-- Two register writes, one after the other, write a pair: with `rd` even, `rd + 1` is not register 0. -/
theorem pair_state (s : State) (heven : rd.toNat % 2 = 0) (hi lo : Word) :
    let t := ((s.setReg rd hi).setReg (rd + 1) lo).advance
    WrotePair rd hi lo s t ∧ Advances s t ∧ OnlyChanged [.registers] s t := by
  have hne : rd + 1 ≠ 0 := by bv_omega
  have hending := Ending.pair (s := s) rd (rd + 1) hi lo
  obtain ⟨hpc, hnpc, hdelay, hcmp⟩ := hending.advances
  refine ⟨fun c => ?_, ⟨hpc, hnpc, hdelay, hcmp⟩, hending.onlyChanged⟩
  rw [State.readCell_advance, State.readCell_setReg, State.readCell_setReg]
  simp only [State.cell, State.cellIn_setReg, State.cwp_setReg, ne_eq, hne, not_false_eq_true, true_and, and_comm]

/-- A permitted `ldd` with even `rd` writes the two words to the pair. -/
theorem ldd_answers {rs1 : Reg} {src2 : RegOrImm} (heven : rd.toNat % 2 = 0) (h : s.loadable (s.ea rs1 src2) 8) :
    Answers (.ldd rs1 src2 rd) s (fun t =>
      WrotePair rd (s.mem.readWord (s.ea rs1 src2)) (s.mem.readWord (s.ea rs1 src2 + 4)) s t ∧ Advances s t ∧
        OnlyChanged [.registers] s t) := by
  rw [← Memory.lowWord_readDword, ← Memory.highWord_readDword]
  exact ⟨_, (withEvenRd_of_even heven).trans (withAccess_of_loadable h), pair_state s heven _ _⟩

/-! ### Stores -/

/-- A permitted store writes its bytes at `ea`. -/
theorem answers_of_storeTo {m : Memory} {v : BitVec (8 * size)} (hexec : exec i s = storeTo s ea size m) (h : s.storable ea size)
    (hwrote : ∀ {t : State}, t.mem = m → WroteMemory ea size v s t) :
    Answers i s (fun t => WroteMemory ea size v s t ∧ Advances s t ∧ OnlyChanged [.memory] s t) := by
  obtain ⟨haligned, hmapped, htext⟩ := (s.storable_iff ea size).1 h
  exact ⟨_, hexec.trans ((storeTo_eq_next_iff ..).2 ⟨haligned, hmapped, htext, rfl⟩), (store_state s m).imp_left hwrote⟩

end

/-! ### The obligations -/

/-- Settles O41: each is the one load operation, with a value that is the big-endian number of its bytes. -/
theorem loadResults : Obligations.LoadResults := by
  rintro s rs1 rd src2 ea rfl
  simp only [State.bigEndian_one, State.bigEndian_two, State.bigEndian_four, BitVec.ofNat_toNat, BitVec.setWidth_eq]
  exact ⟨hasOpcode_of_memoryOperand rfl rfl, faultsAsLoad_of_withAccess rfl, answers_of_loadInto rfl,
    hasOpcode_of_memoryOperand rfl rfl, faultsAsLoad_of_withAccess rfl, answers_of_loadInto rfl,
    hasOpcode_of_memoryOperand rfl rfl, faultsAsLoad_of_withAccess rfl, answers_of_loadInto rfl,
    hasOpcode_of_memoryOperand rfl rfl, faultsAsLoad_of_withAccess rfl, answers_of_loadInto rfl,
    hasOpcode_of_memoryOperand rfl rfl, faultsAsLoad_of_withAccess rfl, answers_of_loadInto rfl⟩

/-- Settles O42: past the check of `rd`, the access is that of every load, and the pair is written one register after the other. -/
theorem loadDoubleResult : Obligations.LoadDoubleResult := by
  rintro s rs1 rd src2 ea rfl
  simp only [State.bigEndian_four, BitVec.ofNat_toNat, BitVec.setWidth_eq]
  exact ⟨hasOpcode_of_memoryOperand rfl rfl, withEvenRd_of_odd,
    fun heven => faultsAsLoad_of_withAccess (withEvenRd_of_even heven), ldd_answers⟩

/-- Settles O43: each is the one store operation, and what it writes is what `WroteMemory` says of its size. -/
theorem storeResults : Obligations.StoreResults := by
  rintro s rs1 rd src2 ea rfl
  exact ⟨hasOpcode_of_memoryOperand rfl rfl, stopsAsStore_of_withStore rfl,
    fun hwf h => answers_of_storeTo rfl h (wroteMemory_byte hwf _ _),
    hasOpcode_of_memoryOperand rfl rfl, stopsAsStore_of_withStore rfl,
    fun hwf h => answers_of_storeTo rfl h (wroteMemory_half hwf _ _),
    hasOpcode_of_memoryOperand rfl rfl, stopsAsStore_of_withStore rfl,
    fun hwf h => answers_of_storeTo rfl h (wroteMemory_word hwf _ _)⟩

/-- Settles O44: past the check of `rd`, `std` is the store of the joined pair. -/
theorem storeDoubleResult : Obligations.StoreDoubleResult := by
  rintro s rs1 rd src2 ea rfl
  exact ⟨hasOpcode_of_memoryOperand rfl rfl, withEvenRd_of_odd,
    fun heven => stopsAsStore_of_withStore (withEvenRd_of_even heven),
    fun heven hwf h => answers_of_storeTo (withEvenRd_of_even heven) h (wroteMemory_dword hwf _ _)⟩

end Sys2Proof.Machine

/-! PROOFS. What stops an instruction (spec 60_exceptions.md R320 to R334, 70_reset_and_hazards.md R365, R366): each outcome an instruction
can have, the conditions of the traps and refusals read off it, the hidden bits, and the hardware trap entry. -/

namespace Sys2Proof.Machine

/-! ### The outcomes of an instruction

One case for each way an instruction can answer, with what must hold of the instruction and the state. The statements on faults and
refusals are read off these cases. -/

/-- The four integer divides with their second operand: the instructions that check a divisor (R330). -/
inductive IsDivide (src2 : RegOrImm) : Instr → Prop
  | udiv (rs1 rd : Reg) : IsDivide src2 (.udiv rs1 src2 rd)
  | udivcc (rs1 rd : Reg) : IsDivide src2 (.udivcc rs1 src2 rd)
  | sdiv (rs1 rd : Reg) : IsDivide src2 (.sdiv rs1 src2 rd)
  | sdivcc (rs1 rd : Reg) : IsDivide src2 (.sdivcc rs1 src2 rd)

/-- What the instruction `i` can answer in `s`: a next state, one of the traps of R321 with the pc and npc of `s`, or a refusal (R331). -/
inductive Outcomes (s : State) (i : Instr) : Result → Prop
  | next (t : State) : Outcomes s i (.next t)
  | illegalInstruction (word : Word) : Outcomes s i (.fault (.illegalInstruction s.pc s.npc word))
  | fpDisabled (hef : s.psr.ef = false) : Outcomes s i (.fault (.fpDisabled s.pc s.npc))
  | windowOverflow : Outcomes s i (.fault (.windowOverflow s.pc s.npc))
  | windowUnderflow : Outcomes s i (.fault (.windowUnderflow s.pc s.npc))
  | memAddressNotAligned (address : Word) : Outcomes s i (.fault (.memAddressNotAligned s.pc s.npc address))
  | fpException (ftt : Ftt) : Outcomes s i (.fault (.fpException s.pc s.npc ftt))
  | dataAccessException (address : Word) : Outcomes s i (.fault (.dataAccessException s.pc s.npc address))
  | divisionByZero (src2 : RegOrImm) (hi : IsDivide src2 i) (hzero : s.op2 src2 = 0) :
    Outcomes s i (.fault (.divisionByZero s.pc s.npc))
  | storeToText (address : Word) : Outcomes s i (.refused (.storeToText address))
  | fbfccAfterFcmp (hcmp : s.afterFcmp = true) : Outcomes s i (.refused .fbfccAfterFcmp)
  | dctiCouple (hdelay : s.inCondDelay = true) : Outcomes s i (.refused .dctiCouple)

/-! Each shared operation adds its own stops to the outcomes of its continuation. -/

section
variable {s : State} {i : Instr} {k : Result}

theorem Outcomes.withFpu (hk : Outcomes s i k) : Outcomes s i (withFpu s k) := by
  unfold Machine.withFpu
  split
  · exact hk
  · next hef => exact .fpDisabled (Bool.eq_false_iff.2 hef)

theorem Outcomes.withEven {regs : List FReg} (hk : Outcomes s i k) : Outcomes s i (withEven s regs k) := by
  unfold Machine.withEven
  split
  · exact hk
  · exact .fpException _

theorem Outcomes.withEvenRd {j : Instr} {rd : Reg} (hk : Outcomes s i k) : Outcomes s i (withEvenRd s j rd k) := by
  unfold Machine.withEvenRd
  split
  · exact hk
  · exact .illegalInstruction _

theorem Outcomes.withoutCouple (hk : Outcomes s i k) : Outcomes s i (withoutCouple s k) := by
  unfold Machine.withoutCouple
  split
  · next hdelay => exact .dctiCouple hdelay
  · exact hk

theorem Outcomes.withDivisor {src2 : RegOrImm} (hi : IsDivide src2 i) (hk : Outcomes s i k) :
    Outcomes s i (withDivisor s (s.op2 src2) k) := by
  unfold Machine.withDivisor
  split
  · next hzero => exact .divisionByZero src2 hi hzero
  · exact hk

theorem Outcomes.withAccess {ea : Word} {size : Nat} (hk : Outcomes s i k) : Outcomes s i (withAccess s ea size k) := by
  unfold Machine.withAccess
  split
  · exact .memAddressNotAligned _
  · split
    · exact hk
    · exact .dataAccessException _

theorem Outcomes.storeTo {ea : Word} {size : Nat} {m : Memory} : Outcomes s i (storeTo s ea size m) := by
  refine .withAccess ?_
  split
  · exact .storeToText _
  · exact .next _

theorem Outcomes.finishFpop {e : IeeeFlags} {t : State} : Outcomes s i (finishFpop s e t) := by
  unfold Machine.finishFpop
  split
  · exact .fpException _
  · exact .next _

theorem Outcomes.fpop {regs : List FReg} {e : IeeeFlags} {t : State} :
    Outcomes s i (Machine.withFpu s (Machine.withEven s regs (Machine.finishFpop s e t))) :=
  .withFpu (.withEven .finishFpop)

theorem Outcomes.save {rs1 rd : Reg} {src2 : RegOrImm} : Outcomes s i (execSave rs1 src2 rd s) := by
  unfold execSave changeWindow
  split
  · exact .windowOverflow
  · exact .next _

theorem Outcomes.restore {rs1 rd : Reg} {src2 : RegOrImm} : Outcomes s i (execRestore rs1 src2 rd s) := by
  unfold execRestore changeWindow
  split
  · exact .windowUnderflow
  · exact .next _

theorem Outcomes.jmpl {rs1 rd : Reg} {src2 : RegOrImm} : Outcomes s i (execJmpl rs1 src2 rd s) := by
  refine .withoutCouple ?_
  split
  · exact .memAddressNotAligned _
  · exact .next _

theorem Outcomes.floatBranchTo {always annul taken : Bool} {disp22 : BitVec 22} :
    Outcomes s i (floatBranchTo s always annul taken disp22) := by
  refine .withoutCouple ?_
  split
  · next hcmp => exact .fbfccAfterFcmp hcmp
  · exact .withFpu (.next _)

end

/-- Every instruction answers as listed. -/
theorem exec_outcomes (i : Instr) (s : State) : Outcomes s i (exec i s) := by
  cases i with
  | add | sub | and | andn | or | orn | xor | xnor | sll | srl | sra | sethi | nop | umul | smul => exact .next _
  | addcc | subcc | andcc | andncc | orcc | orncc | xorcc | xnorcc | umulcc | smulcc => exact .next _
  | udiv => exact .withDivisor (.udiv ..) (.next _)
  | udivcc => exact .withDivisor (.udivcc ..) (.next _)
  | sdiv => exact .withDivisor (.sdiv ..) (.next _)
  | sdivcc => exact .withDivisor (.sdivcc ..) (.next _)
  | save => exact .save
  | restore => exact .restore
  | call => exact .withoutCouple (.next _)
  | jmpl => exact .jmpl
  | ba | bn | bne | be | bg | ble | bge | bl | bgu | bleu | bcc | bcs | bpos | bneg | bvc | bvs => exact .withoutCouple (.next _)
  | fba | fbn | fbu | fbg | fbug | fbl | fbul | fblg | fbne | fbe | fbue | fbge | fbuge | fble | fbule | fbo => exact .floatBranchTo
  | ldsb | ldsh | ldub | lduh | ld => exact .withAccess (.next _)
  | ldd => exact .withEvenRd (.withAccess (.next _))
  | stb | sth | st => exact .storeTo
  | std => exact .withEvenRd .storeTo
  | stdf => exact .withFpu (.withEven .storeTo)
  | lddf => exact .withFpu (.withEven (.withAccess (.next _)))
  | faddd | fsubd | fmuld | fdivd | fmovd | fnegd | fabsd | fitod | fdtoi | fcmpd => exact .fpop

/-! ### Faults (R320 to R333) -/

/-- A fault records where it was raised (R333). -/
def Fault.Precise (f : Fault) (s : State) : Prop := f.pc = s.pc ∧ f.npc = s.npc

theorem precise_of_exec {i : Instr} {s : State} {f : Fault} (h : exec i s = .fault f) : f.Precise s := by
  have houtcome := h ▸ exec_outcomes i s
  cases houtcome <;> exact ⟨rfl, rfl⟩

theorem precise_of_fetchWord {s : State} {f : Fault} (h : fetchWord s = .error f) : f.Precise s := by
  rcases (fetchWord_eq_error_iff s f).1 h with ⟨-, rfl⟩ | ⟨-, -, rfl⟩ <;> exact ⟨rfl, rfl⟩

/-- A fetched word faults as an instruction, or is rejected with a fault of its own (R98). -/
theorem precise_of_runWord {w : Word} {s : State} {f : Fault} (h : runWord exec w s = .fault f) : f.Precise s := by
  unfold runWord at h
  split at h
  case h_1 => exact precise_of_exec h
  case h_2 =>
    obtain rfl := (raise_eq_fault_iff ..).1 h
    exact ⟨rfl, rfl⟩
  case h_3 =>
    rcases (withFpu_eq_fault_iff ..).1 h with ⟨-, hraise⟩ | ⟨-, rfl⟩
    · obtain rfl := (raise_eq_fault_iff ..).1 hraise
      exact ⟨rfl, rfl⟩
    · exact ⟨rfl, rfl⟩
  all_goals cases h

/-- A step that faults has failed its fetch or run a word. -/
theorem precise_of_step {s : State} {f : Fault} (h : step s = .fault f) : f.Precise s := by
  unfold step at h
  split at h
  · cases h
  · split at h
    · next hfetch =>
      cases h
      exact precise_of_fetchWord hfetch
    · exact precise_of_runWord h

theorem withAccess_of_misaligned {s : State} {ea : Word} {size : Nat} {k : Result} (h : ea.toNat % size ≠ 0) :
    withAccess s ea size k = .fault (.memAddressNotAligned s.pc s.npc ea) := if_pos h

theorem next_ne_fault (t : State) (f : Fault) : (.next t : Result) ≠ .fault f := nofun

/-- An access of one byte is never misaligned (R54). -/
theorem ne_misaligned_of_byte_access {i : Instr} {s : State} {ea : Word} {k : Result} (hexec : exec i s = withAccess s ea 1 k)
    (hk : ∀ f, k ≠ .fault f) (pc npc address : Word) : exec i s ≠ .fault (.memAddressNotAligned pc npc address) := by
  rw [hexec, withAccess, if_neg (by simp [Nat.mod_one])]
  split
  · exact hk _
  · exact nofun

/-- A store faults only by the checks of its access. -/
theorem store_continuation_ne_fault (s : State) (ea : Word) (size : Nat) (t : State) (f : Fault) :
    (if someByte s.isText ea size then .refused (.storeToText ea) else .next t : Result) ≠ .fault f := by
  split <;> exact nofun

/-! ### The obligations on faults -/

/-- Settles O8: the checks of the fetch, in their order. -/
theorem unmappedFetchFaults : Obligations.UnmappedFetchFaults := by
  refine fun s haligned hunmapped => ⟨fun hrunning => ?_, fun hended f => ?_, rfl⟩
  · have hfetch : fetchWord s = .error (.instructionAccessException s.pc s.npc) :=
      (fetchWord_eq_error_iff ..).2 (.inr ⟨haligned, (allBytes_eq_false_iff ..).2 hunmapped, rfl⟩)
    rw [step, if_neg hrunning, hfetch]
  · rw [step_of_ended hended]
    exact nofun

/-- Settles O10: the numbers are those of the table, one row each. -/
theorem faultsArePrecise : Obligations.FaultsArePrecise := by
  refine ⟨fun _ _ => precise_of_step, fun f => ?_⟩
  cases f <;> exact ⟨rfl, rfl⟩

/-- Settles O29: of all outcomes only that of a divide by 0 is the trap; past the check of the divisor a divide answers a next state. -/
theorem divisionByZeroTraps : Obligations.DivisionByZeroTraps := by
  refine ⟨fun s rs1 rd src2 hzero mk hmk => ?zero, fun _ _ => rfl, fun i s pc npc h => ?only,
    fun s rs1 rd src2 hne mk hmk f h => ?other⟩
  case zero =>
    simp only [List.mem_cons, List.not_mem_nil, or_false] at hmk
    rcases hmk with rfl | rfl | rfl | rfl <;> exact withDivisor_of_zero hzero
  case only =>
    have houtcome := h ▸ exec_outcomes i s
    cases houtcome with
    | divisionByZero src2 hi hzero =>
      cases hi with
      | udiv rs1 rd => exact ⟨.udiv, by simp, rs1, rd, src2, rfl, hzero⟩
      | udivcc rs1 rd => exact ⟨.udivcc, by simp, rs1, rd, src2, rfl, hzero⟩
      | sdiv rs1 rd => exact ⟨.sdiv, by simp, rs1, rd, src2, rfl, hzero⟩
      | sdivcc rs1 rd => exact ⟨.sdivcc, by simp, rs1, rd, src2, rfl, hzero⟩
  case other =>
    have hpast : ∀ t : State, withDivisor s (s.op2 src2) (.next t) ≠ .fault f := fun t => by
      rw [withDivisor, if_neg hne]
      exact nofun
    simp only [List.mem_cons, List.not_mem_nil, or_false] at hmk
    rcases hmk with rfl | rfl | rfl | rfl <;> exact hpast _ h

/-- Settles O45: the alignment is the first check of every access once the register and the unit have passed theirs. -/
theorem misalignedAccessFaults : Obligations.MisalignedAccessFaults := by
  rintro s rs1 rd src2 ea rfl
  refine ⟨fun mk hmk h => ?half, fun mk hmk h => ?word, fun mk hmk heven h => ?double, fun mk hmk hef heven h => ?float,
    execJmpl_of_misaligned, fun mk hmk pc npc address => ?byte, rfl⟩
  all_goals simp only [List.mem_cons, List.not_mem_nil, or_false] at hmk
  case half => rcases hmk with rfl | rfl | rfl <;> exact withAccess_of_misaligned h
  case word => rcases hmk with rfl | rfl <;> exact withAccess_of_misaligned h
  case double => rcases hmk with rfl | rfl <;> exact (withEvenRd_of_even heven).trans (withAccess_of_misaligned h)
  case float =>
    have heven : ∀ n ∈ [rd], n.toNat % 2 = 0 := by simpa using heven
    rcases hmk with rfl | rfl <;>
      exact (withFpu_of_enabled hef _).trans ((withEven_of_even _ heven).trans (withAccess_of_misaligned h))
  case byte =>
    rcases hmk with rfl | rfl | rfl
    · exact ne_misaligned_of_byte_access rfl (next_ne_fault _) _ _ _
    · exact ne_misaligned_of_byte_access rfl (next_ne_fault _) _ _ _
    · exact ne_misaligned_of_byte_access rfl (store_continuation_ne_fault _ _ _ _) _ _ _

/-! ### The hidden bits (R43, R365, R366) -/

/-- A branch other than `ba` and `fba` sets in_cond_delay exactly when its delay slot comes next: an annulled one is passed over. -/
theorem inCondDelay_branchState (s : State) (always annul taken : Bool) (disp22 : BitVec 22) :
    (branchState s always annul taken disp22).inCondDelay =
      (!always && decide ((branchState s always annul taken disp22).pc = s.npc)) := by
  cases taken <;> cases annul <;> cases always <;> simp [branchState]

theorem inCondDelay_of_integerBranchTo {s t : State} {always annul taken : Bool} {disp22 : BitVec 22}
    (h : integerBranchTo s always annul taken disp22 = .next t) : t.inCondDelay = (!always && decide (t.pc = s.npc)) := by
  obtain ⟨-, rfl⟩ := (integerBranchTo_eq_next_iff ..).1 h
  exact inCondDelay_branchState ..

theorem inCondDelay_of_floatBranchTo {s t : State} {always annul taken : Bool} {disp22 : BitVec 22}
    (h : floatBranchTo s always annul taken disp22 = .next t) : t.inCondDelay = (!always && decide (t.pc = s.npc)) := by
  obtain ⟨-, -, -, rfl⟩ := (floatBranchTo_eq_next_iff ..).1 h
  exact inCondDelay_branchState ..

/-- Outside the branches in_cond_delay is cleared. -/
theorem Ending.inCondDelay {s t : State} {part : Part} {parts : List Part} {transfer fcmpd : Bool}
    (h : Ending s (part :: parts) transfer fcmpd t) : t.inCondDelay = false := by
  cases h <;> simp

/-- Which instructions leave in_cond_delay set, and when (R365). -/
theorem inCondDelay_of_exec {i : Instr} {s t : State} (h : exec i s = .next t) :
    t.inCondDelay = (isConditional i && decide (t.pc = s.npc)) := by
  have hending := exec_ending h
  cases i with
  | ba | bn | bne | be | bg | ble | bge | bl | bgu | bleu | bcc | bcs | bpos | bneg | bvc | bvs =>
    exact inCondDelay_of_integerBranchTo h
  | fba | fbn | fbu | fbg | fbug | fbl | fbul | fblg | fbne | fbe | fbue | fbge | fbuge | fble | fbule | fbo =>
    exact inCondDelay_of_floatBranchTo h
  | nop =>
    obtain ⟨-, -, hdelay, -⟩ := hending.advances
    exact hdelay
  | _ => exact hending.inCondDelay

theorem Ending.afterFcmp {s t : State} {parts : List Part} {transfer fcmpd : Bool} (h : Ending s parts transfer fcmpd t) :
    t.afterFcmp = fcmpd := by
  cases h <;> simp

/-- Every control transfer is refused in the delay slot of a conditional branch (R365). -/
theorem exec_of_couple {i : Instr} {s : State} (hi : isTransfer i = true) (hdelay : s.inCondDelay = true) :
    exec i s = .refused .dctiCouple := by
  cases i with
  | call | jmpl => exact withoutCouple_of_couple hdelay
  | ba | bn | bne | be | bg | ble | bge | bl | bgu | bleu | bcc | bcs | bpos | bneg | bvc | bvs =>
    exact integerBranchTo_of_couple hdelay ..
  | fba | fbn | fbu | fbg | fbug | fbl | fbul | fblg | fbne | fbe | fbue | fbge | fbuge | fble | fbule | fbo =>
    exact floatBranchTo_of_couple hdelay ..
  | _ => cases hi

/-! ### The obligations on the hidden bits -/

/-- Settles O18: of all outcomes only that of a transfer in a conditional delay slot is the refusal. -/
theorem dctiCouples : Obligations.DctiCouples := by
  refine fun i s => ⟨exec_of_couple, fun hdelay h => ?_, fun _ => inCondDelay_of_exec⟩
  have houtcome := h ▸ exec_outcomes i s
  cases houtcome with
  | dctiCouple hset => simp [hdelay] at hset

/-- Settles O19: of all outcomes only that of a floating branch with the bit set is the refusal, and every ending says what it leaves in
the bit. -/
theorem floatBranchAfterFcmpd : Obligations.FloatBranchAfterFcmpd := by
  refine fun s => ⟨fun mk hmk annul disp22 hdelay hcmp => ?refused, fun i hcmp h => ?clear, fun i t h => (exec_ending h).afterFcmp⟩
  case refused =>
    simp only [List.mem_cons, List.not_mem_nil, or_false] at hmk
    rcases hmk with rfl | rfl | rfl | rfl | rfl | rfl | rfl | rfl | rfl | rfl | rfl | rfl | rfl | rfl | rfl | rfl <;>
      exact floatBranchTo_of_afterFcmp hdelay hcmp ..
  case clear =>
    have houtcome := h ▸ exec_outcomes i s
    cases houtcome with
    | fbfccAfterFcmp hset => simp [hcmp] at hset

/-! ### The hardware trap entry (R334) -/

/-- The TBR is the trap base address, the trap type, and four zeros (R35). -/
theorem State.tbrWord_eq_append (s : State) : s.tbrWord = s.tbrBase ++ s.tbrTt ++ 0#4 := by
  obtain ⟨hbase, htt, hzero⟩ := s.tbrWord_slices
  rw [← hbase, ← htt, ← show _ = 0#4 from hzero]
  apply BitVec.eq_of_toNat_eq
  rw [toNat_append_eq, toNat_append_eq]
  simp only [BitVec.extractLsb'_toNat, Nat.shiftRight_eq_div_pow]
  omega

/-- Two registers of one window written one after the other: each cell holds its value, for they are two cells (R23). -/
theorem State.readCell_setRegIn_setRegIn (s : State) (w : BitVec 5) {n m : Reg} (hn : n ≠ 0) (hm : m ≠ 0) (hnm : n ≠ m) (v v' : Word)
    (c : RegCell) :
    ((s.setRegIn w n v).setRegIn w m v').readCell c =
      if c = s.cellIn w n then v else if c = s.cellIn w m then v' else s.readCell c := by
  have hcells : s.cellIn w n ≠ s.cellIn w m := (regCell_injective s.params.nwindows w).ne hnm
  rw [State.readCell_setRegIn, State.readCell_setRegIn, State.cellIn_setRegIn]
  by_cases hc : c = s.cellIn w n
  · simp only [hc, hcells, hn, ne_eq, not_false_eq_true, and_true, false_and, if_true, if_false]
  · simp only [hc, hm, ne_eq, not_false_eq_true, and_true, false_and, if_false]

/-- Settles O59: the entry writes the two registers of the window below, and the new pc is the TBR it has set. -/
theorem hardwareTrapEntrySaves : Obligations.HardwareTrapEntrySaves := by
  rintro s tt w rfl
  refine ⟨fun het => if_neg (by simp [het]), fun het => ⟨_, if_pos het, rfl, rfl, fun c => ?registers, rfl, ?base, ?pc, rfl,
    fun a => ?memory, ?icc, ?wim⟩⟩
  case registers =>
    exact (State.readCell_congr rfl rfl c).trans
      (s.readCell_setRegIn_setRegIn _ (by decide) (by decide) (by decide) _ _ c)
  case pc =>
    refine (State.tbrWord_eq_append _).trans ?_
    simp
  all_goals simp

end Sys2Proof.Machine

/-! PROOFS. The floating moves, `fcmpd`, and floating `ldd` and `std` (spec 47_floating_point.md R260, R265 to R267, R270 to R272): their
words, the checks before each, and how each ends. -/

namespace Sys2Proof.Machine

/-! ### The words of the floating instructions -/

/-- The encoding of an operate instruction with one operand that stands in the FPop1 map (R84, R91). -/
theorem hasOpf_of_unary {mk : FReg → FReg → Instr} {opf : BitVec 9} (hentry : fpop1Entry opf = .unary mk) {rs2 rd : FReg}
    (hencode : encode (mk rs2 rd) = wordFp 0x34 opf 0 rs2 rd) : HasOpf (mk rs2 rd) 0x34 opf := by
  refine ⟨⟨?op, ?op3, ?decodes⟩, ?opf⟩ <;> rw [hencode]
  case op => exact fieldOp_wordFp ..
  case op3 => exact fieldOp3_wordFp ..
  case decodes => exact decode_wordFp_unary hentry ..
  case opf => exact fieldOpf_wordFp ..

/-- The encoding of a comparison, which stands in the FPop2 map (R84, R91). -/
theorem hasOpf_of_compare {mk : FReg → FReg → Instr} {opf : BitVec 9} (hentry : fpop2Entry opf = .compare mk) {rs1 rs2 : FReg}
    (hencode : encode (mk rs1 rs2) = wordFp 0x35 opf rs1 rs2 0) : HasOpf (mk rs1 rs2) 0x35 opf := by
  refine ⟨⟨?op, ?op3, ?decodes⟩, ?opf⟩ <;> rw [hencode]
  case op => exact fieldOp_wordFp ..
  case op3 => exact fieldOp3_wordFp ..
  case decodes => exact decode_wordFp_compare hentry ..
  case opf => exact fieldOpf_wordFp ..

/-! ### The checks of an operate instruction (R260) -/

section
variable {s : State} {i : Instr} {regs : List FReg} {k : Result} {e : IeeeFlags}

theorem oddFaults_of_withEven (hexec : exec i s = withFpu s (withEven s regs k)) (hef : s.psr.ef = true) : OddFaults regs i s :=
  fun hodd => by rw [hexec, withFpu_of_enabled hef, withEven_of_odd _ hodd]

/-- Past its checks an operate instruction ends in the state it names, with its exceptions in the FSR (R40). -/
theorem answers_of_fpop {u : State} {P : State → Prop} (hexec : exec i s = withFpu s (withEven s regs (finishFpop s e u)))
    (hef : s.psr.ef = true) (heven : ∀ n ∈ regs, n.toNat % 2 = 0) (htrap : e.meets s.fsr.tem = false)
    (h : P { u with cexc := e, aexc := s.aexc.union e, ftt := .none }) : Answers i s P :=
  ⟨_, hexec.trans ((fpop_eq_next_iff ..).2 ⟨hef, fun n hn => by rw [isEven_eq, heven n hn]; rfl, htrap, rfl⟩), h⟩

theorem IeeeFlags.none_meets (e : IeeeFlags) : IeeeFlags.none.meets e = false := rfl

@[simp] theorem IeeeFlags.union_none (e : IeeeFlags) : e.union .none = e := by
  simp [IeeeFlags.union, IeeeFlags.none]

end

/-! ### The moves (R265 to R267) -/

/-- A move writes the image of all 64 bits and raises nothing, so that `aexc` keeps its value. -/
theorem answers_of_fpMove {s : State} {i : Instr} {g : Dword → Dword} {rs2 rd : FReg} (hexec : exec i s = fpMove g rs2 rd s)
    (hef : s.psr.ef = true) (hrs2 : rs2.toNat % 2 = 0) (hrd : rd.toNat % 2 = 0) :
    Answers i s (fun t =>
      WroteDouble rd (g (s.dreg rs2)) s t ∧ RaisedFlags .none s t ∧ t.aexc = s.aexc ∧ Advances s t ∧
        OnlyChanged [.floats, .fpStatus] s t) := by
  have heven : ∀ n ∈ [rs2, rd], n.toNat % 2 = 0 := by simp [hrs2, hrd]
  obtain ⟨hwrote, hraised, hadvance, honly⟩ := fpop_double_state s rd (g (s.dreg rs2)) .none
  exact answers_of_fpop hexec hef heven (IeeeFlags.none_meets _)
    ⟨hwrote, hraised, hraised.aexc.trans (IeeeFlags.union_none _), hadvance, honly⟩

/-- Settles O51: the three are one operation with three functions of the 64 bits. -/
theorem fpMoveResults : Obligations.FpMoveResults := fun _ _ _ hef =>
  ⟨hasOpf_of_unary rfl rfl, fieldRs1_wordFp .., oddFaults_of_withEven rfl hef, answers_of_fpMove (g := id) rfl hef,
    hasOpf_of_unary rfl rfl, fieldRs1_wordFp .., oddFaults_of_withEven rfl hef, answers_of_fpMove (g := negateDouble) rfl hef,
    hasOpf_of_unary rfl rfl, fieldRs1_wordFp .., oddFaults_of_withEven rfl hef, answers_of_fpMove (g := absDouble) rfl hef⟩

/-! ### Floating `ldd` and `std` (R270, R271) -/

/-- The checks of the unit and of the register pass. -/
theorem exec_of_enabled_even {s : State} {i : Instr} {rd : FReg} {k : Result} (hexec : exec i s = withFpu s (withEven s [rd] k))
    (hef : s.psr.ef = true) (heven : rd.toNat % 2 = 0) : exec i s = k := by
  rw [hexec, withFpu_of_enabled hef, withEven_of_even k (by simpa using heven)]

/-- A permitted floating load writes the eight bytes as one big-endian number to `D[rd]`. -/
theorem lddf_answers {s : State} {rs1 : Reg} {src2 : RegOrImm} {rd : FReg} (hef : s.psr.ef = true) (heven : rd.toNat % 2 = 0)
    (h : s.loadable (s.ea rs1 src2) 8) :
    Answers (.lddf rs1 src2 rd) s (fun t =>
      WroteDouble rd (BitVec.ofNat 64 (s.bigEndian (s.ea rs1 src2) 8)) s t ∧ Advances s t ∧ OnlyChanged [.floats] s t) := by
  rw [State.bigEndian_eight, BitVec.ofNat_toNat, BitVec.setWidth_eq]
  exact ⟨_, (exec_of_enabled_even rfl hef heven).trans (withAccess_of_loadable h), float_load_state ..⟩

/-- Settles O54: the register is checked before the address, and past that check the access is that of every load or store. -/
theorem floatLoadStoreResults : Obligations.FloatLoadStoreResults := by
  rintro s rs1 rd src2 ea rfl hef
  refine ⟨hasOpcode_of_memoryOperand rfl rfl, hasOpcode_of_memoryOperand rfl rfl, fun hodd mk hmk => ?odd, fun heven => ?even⟩
  case odd =>
    have hregs : ∃ n ∈ [rd], n.toNat % 2 = 1 := by simpa using hodd
    have hfault : exec (mk rs1 src2 rd) s = .fault (.fpException s.pc s.npc .invalidFpRegister) := by
      simp only [List.mem_cons, List.not_mem_nil, or_false] at hmk
      rcases hmk with rfl | rfl <;> exact oddFaults_of_withEven rfl hef hregs
    exact ⟨fun _ => hfault, fun _ => .inl hfault⟩
  case even =>
    exact ⟨faultsAsLoad_of_withAccess (exec_of_enabled_even rfl hef heven),
      stopsAsStore_of_withStore (exec_of_enabled_even rfl hef heven), lddf_answers hef heven,
      fun hwf h => answers_of_storeTo (exec_of_enabled_even rfl hef heven) h (wroteMemory_dword hwf _ _)⟩

/-! ### The comparison (R272) -/

theorem compareDoubles_eq_unordered_iff (a b : Dword) : compareDoubles a b = .unordered ↔ isNaN a = true ∨ isNaN b = true := by
  rw [compareDoubles, ← Bool.or_eq_true]
  by_cases h : (isNaN a || isNaN b) = true
  · rw [if_pos h]
    exact iff_of_true rfl h
  · rw [if_neg h]
    refine iff_of_false ?_ h
    split
    · exact nofun
    · split <;> exact nofun

/-- Numbers compare by their values. -/
theorem compareDoubles_of_numbers {a b : Dword} (ha : isNaN a = false) (hb : isNaN b = false) :
    (compareDoubles a b = .equal ↔ dVal a = dVal b) ∧ (compareDoubles a b = .less ↔ dVal a < dVal b) ∧
      (compareDoubles a b = .greater ↔ dVal b < dVal a) := by
  rw [compareDoubles, if_neg (by simp [ha, hb])]
  rcases lt_trichotomy (dVal a) (dVal b) with h | h | h
  · simp [h, h.ne, h.le]
  · simp [h]
  · simp [h, h.ne', h.not_gt]

/-- Under the unit as the spec fixes it, `fcmpd` of even registers ends in its state. -/
theorem fcmpd_answers {s : State} {rs1 rs2 : FReg} (hfpu : s.standardFpu) (hrs1 : rs1.toNat % 2 = 0) (hrs2 : rs2.toNat % 2 = 0) :
    Answers (.fcmpd rs1 rs2) s (fun t =>
      t.fcc = compareDoubles (s.dreg rs1) (s.dreg rs2) ∧
        RaisedFlags ⟨isSignallingNaN (s.dreg rs1) || isSignallingNaN (s.dreg rs2), false, false, false, false⟩ s t ∧
        t.pc = s.npc ∧ t.npc = s.npc + 4 ∧ t.inCondDelay = false ∧ t.afterFcmp = true ∧ OnlyChanged [.fcc, .fpStatus] s t) := by
  have heven : ∀ n ∈ [rs1, rs2], n.toNat % 2 = 0 := by simp [hrs1, hrs2]
  exact answers_of_fpop rfl hfpu.enabled heven (by rw [hfpu.untrapped, IeeeFlags.meets_none])
    ⟨rfl, ⟨rfl, rfl, rfl⟩, rfl, rfl, rfl, rfl, (Ending.compare ..).onlyChanged⟩

/-- An infinity lies beyond every finite value on its side. -/
theorem dMag_lt_infBits {d : Dword} (h : dExp d < 2047) : dMag d < bitsMag infBits := by
  rw [dMag_eq]
  exact bitsMag_strictMono ((dExp_lt_iff d).1 h)

theorem dVal_infinity (neg : Bool) : dVal (infinity neg) = signed neg (bitsMag infBits) := dVal_withSign neg (by decide)

theorem dVal_signedZero (neg : Bool) : dVal (signedZero neg) = 0 := by
  rw [signedZero, dVal_withSign neg (by decide), bitsMag_zero, signed_zero]

/-- Settles O55: the relation is that of the values, and an infinity is larger in magnitude than every finite double. -/
theorem fcmpdResult : Obligations.FcmpdResult := by
  refine ⟨fun s rs1 rs2 hfpu => ⟨hasOpf_of_compare rfl rfl, fieldRd_wordFp .., oddFaults_of_withEven rfl hfpu.enabled,
    fun hrs1 hrs2 => ?answers⟩, fun neg d hfinite => ?infinity, ?zeros⟩
  case answers =>
    obtain ⟨t, hexec, hfcc, hrest⟩ := fcmpd_answers hfpu hrs1 hrs2
    refine ⟨t, hexec, ?_, fun ha hb => ?_, hrest⟩ <;> rw [hfcc]
    · exact compareDoubles_eq_unordered_iff ..
    · exact compareDoubles_of_numbers ha hb
  case infinity =>
    have hmag := dMag_lt_infBits hfinite
    have habs := natAbs_dVal d
    cases neg <;> simp only [dVal_infinity, signed, if_true, if_false, Bool.false_eq_true] <;> omega
  case zeros => rw [dVal_signedZero, dVal_signedZero]

end Sys2Proof.Machine

/-! PROOFS. The special cases of the floating arithmetic (spec 47_floating_point.md R273): which operands give a NaN, an infinity or a zero
without rounding. -/

namespace Sys2Proof.Machine

/-! ### Kinds of doubles (R274) -/

theorem dExp_le (d : Dword) : dExp d ≤ 2047 := Nat.le_of_lt_succ (d.extractLsb' 52 11).isLt

/-- A double is finite when it is neither a NaN nor an infinity. -/
theorem dExp_lt_iff_not_special (d : Dword) : dExp d < 2047 ↔ isNaN d = false ∧ isInf d = false := by
  have hle := dExp_le d
  simp only [isNaN, isInf, Bool.and_eq_false_iff, decide_eq_false_iff_not]
  omega

theorem isInf_of_isZero {d : Dword} (h : isZero d = true) : isInf d = false := by
  obtain ⟨hexp, -⟩ : dExp d = 0 ∧ dFrac d = 0 := by simpa [isZero] using h
  simp [isInf, hexp]

theorem isZero_of_isInf {d : Dword} (h : isInf d = true) : isZero d = false := by
  cases hzero : isZero d
  · rfl
  · exact absurd h (by simp [isInf_of_isZero hzero])

theorem isNaN_negateDouble (d : Dword) : isNaN (negateDouble d) = isNaN d := by
  rw [isNaN, dExp_negateDouble, dFrac_negateDouble, isNaN]

theorem isInf_negateDouble (d : Dword) : isInf (negateDouble d) = isInf d := by
  rw [isInf, dExp_negateDouble, dFrac_negateDouble, isInf]

/-- The free bits of `GenNaN` leave the exponent and the quiet bit as they are (R273). -/
theorem isQuietNaN_genNaN (op : FpOp) (a b : Dword) : isQuietNaN (genNaN op a b) := by
  rw [genNaN]
  generalize (Config.genNaNBits op a b).getLsbD 51 = neg
  have hfree := ((Config.genNaNBits op a b).extractLsb' 0 51).isLt
  generalize ((Config.genNaNBits op a b).extractLsb' 0 51).toNat = free at hfree
  have hbig : infBits + 2 ^ 51 + free < 2 ^ 63 := by
    rw [infBits]
    omega
  have hexp : dExp (withSign neg (infBits + 2 ^ 51 + free)) = 2047 := by
    rw [dExp_eq, magBits_withSign neg hbig, infBits]
    omega
  have hfrac : dFrac (withSign neg (infBits + 2 ^ 51 + free)) = 2 ^ 51 + free := by
    rw [dFrac_eq, magBits_withSign neg hbig, infBits]
    omega
  have hquiet : (withSign neg (infBits + 2 ^ 51 + free)).getLsbD 51 = true := by
    rw [BitVec.getLsbD, Nat.testBit_eq_decide_div_mod_eq, toNat_withSign neg hbig, decide_eq_true_eq, infBits]
    split <;> omega
  have hnan : isNaN (withSign neg (infBits + 2 ^ 51 + free)) = true := by
    rw [isNaN, hexp, hfrac]
    simp
  exact ⟨hnan, by rw [isSignallingNaN, hquiet]; simp⟩

/-! ### The rows of R273, operation by operation -/

section
variable {dir : RoundDir} {invalid : FpResult} {x y : Dword}

theorem addNumbers_of_infinities_apart (hx : isInf x = true) (hy : isInf y = true) (hsign : dSign x ≠ dSign y) :
    addNumbers dir invalid x y = invalid := by
  simp [addNumbers, hx, hy, hsign]

theorem addNumbers_of_left_infinity (hx : isInf x = true) (hy : isInf y = true → dSign x = dSign y) :
    addNumbers dir invalid x y = exactly x := by
  rw [addNumbers, if_pos hx, if_neg]
  simpa using hy

theorem addNumbers_of_right_infinity (hx : isInf x = false) (hy : isInf y = true) : addNumbers dir invalid x y = exactly y := by
  simp [addNumbers, hx, hy]

/-- An exact sum of zero in round to nearest is +0 unless both are -0. -/
theorem addNumbers_of_zero_sum (hx : isInf x = false) (hy : isInf y = false) (hsum : dVal x + dVal y = 0) :
    addNumbers .nearestEven invalid x y = exactly (signedZero (dSign x && dSign y)) := by
  rw [addNumbers, if_neg (by simp [hx]), if_neg (by simp [hy]), if_pos hsum]
  cases dSign x <;> cases dSign y <;> rfl

/-- Only infinities of opposite signs make an addition invalid. -/
theorem addNumbers_eq_of_valid (invalid' : FpResult) (h : isInf x = true → isInf y = true → dSign x = dSign y) :
    addNumbers dir invalid x y = addNumbers dir invalid' x y := by
  cases hx : isInf x
  · simp only [addNumbers, hx, Bool.false_eq_true, if_false]
  · rw [addNumbers_of_left_infinity hx (h hx), addNumbers_of_left_infinity hx (h hx)]

theorem mulNumbers_of_infinity_zero (h : isInf x = true ∧ isZero y = true ∨ isZero x = true ∧ isInf y = true) :
    mulNumbers dir invalid x y = invalid := by
  rcases h with ⟨hx, hy⟩ | ⟨hx, hy⟩ <;> simp [mulNumbers, hx, hy]

/-- Neither operand of such a product is zero, for an infinity is not. -/
theorem mulNumbers_of_infinity_nonzero (hinf : isInf x = true ∨ isInf y = true) (hx : isZero x = false) (hy : isZero y = false) :
    mulNumbers dir invalid x y = exactly (infinity (dSign x ^^ dSign y)) := by
  rw [mulNumbers, if_pos (by simpa using hinf), if_neg (by simp [hx, hy])]

theorem divNumbers_of_infinities (hx : isInf x = true) (hy : isInf y = true) : divNumbers dir invalid x y = invalid := by
  simp [divNumbers, hx, hy]

theorem divNumbers_of_zeros (hx : isZero x = true) (hy : isZero y = true) : divNumbers dir invalid x y = invalid := by
  simp [divNumbers, hx, hy, isInf_of_isZero]

theorem divNumbers_by_zero (hinf : isInf x = false) (hx : isZero x = false) (hy : isZero y = true) :
    divNumbers dir invalid x y = ⟨infinity (dSign x ^^ dSign y), ⟨false, false, false, true, false⟩⟩ := by
  rw [divNumbers, if_neg (by simp [hinf]), if_neg (by simp [isInf_of_isZero hy]), if_pos hy, if_neg (by simp [hx])]

theorem divNumbers_of_left_infinity (hx : isInf x = true) (hy : isInf y = false) :
    divNumbers dir invalid x y = exactly (infinity (dSign x ^^ dSign y)) := by
  rw [divNumbers, if_pos hx, if_neg (by simp [hy])]

theorem divNumbers_by_infinity (hx : isInf x = false) (hy : isInf y = true) :
    divNumbers dir invalid x y = exactly (signedZero (dSign x ^^ dSign y)) := by
  rw [divNumbers, if_neg (by simp [hx]), if_pos hy]

end

/-! ### The four instructions on special operands -/

section
variable {dir : RoundDir} {a b : Dword}

theorem ieeeArith_of_nan (h : isNaN a = true ∨ isNaN b = true) (op : FpOp) :
    ieeeArith dir op a b = ⟨genNaN op a b, ⟨isSignallingNaN a || isSignallingNaN b, false, false, false, false⟩⟩ :=
  if_pos (by simpa using h)

/-- The operation on two doubles that are not NaNs. -/
def numbersArith (dir : RoundDir) (op : FpOp) (a b : Dword) : FpResult :=
  match op with
  | .add => addNumbers dir (invalidResult op a b) a b
  | .sub => addNumbers dir (invalidResult op a b) a (negateDouble b)
  | .mul => mulNumbers dir (invalidResult op a b) a b
  | .div => divNumbers dir (invalidResult op a b) a b

theorem ieeeArith_of_numbers (ha : isNaN a = false) (hb : isNaN b = false) (op : FpOp) :
    ieeeArith dir op a b = numbersArith dir op a b := by
  have hnan : ¬(isNaN a || isNaN b) = true := by simp [ha, hb]
  refine (if_neg hnan).trans ?_
  cases op <;> rfl

/-- The invalid operations of R273. -/
def isInvalidOp (op : FpOp) (a b : Dword) : Bool :=
  match op with
  | .add => isInf a && isInf b && (dSign a != dSign b)
  | .sub => isInf a && isInf b && (dSign a == dSign b)
  | .mul => (isInf a && isZero b) || (isZero a && isInf b)
  | .div => (isZero a && isZero b) || (isInf a && isInf b)

theorem numbersArith_of_invalid {op : FpOp} (h : isInvalidOp op a b = true) : numbersArith dir op a b = invalidResult op a b := by
  cases op with
  | add =>
    obtain ⟨⟨ha, hb⟩, hsign⟩ : (isInf a = true ∧ isInf b = true) ∧ dSign a ≠ dSign b := by simpa [isInvalidOp] using h
    exact addNumbers_of_infinities_apart ha hb hsign
  | sub =>
    obtain ⟨⟨ha, hb⟩, hsign⟩ : (isInf a = true ∧ isInf b = true) ∧ dSign a = dSign b := by simpa [isInvalidOp] using h
    exact addNumbers_of_infinities_apart ha ((isInf_negateDouble b).trans hb) (by simp [dSign_negateDouble, hsign])
  | mul => exact mulNumbers_of_infinity_zero (by simpa [isInvalidOp] using h)
  | div =>
    have hcases : isZero a = true ∧ isZero b = true ∨ isInf a = true ∧ isInf b = true := by simpa [isInvalidOp] using h
    rcases hcases with ⟨ha, hb⟩ | ⟨ha, hb⟩
    · exact divNumbers_of_zeros ha hb
    · exact divNumbers_of_infinities ha hb

/-- `fsubd x, y` is `faddd x, (-y)`, but for the NaN of an invalid operation (R273). -/
theorem numbersArith_sub (h : (isInf a && isInf b && (dSign a == dSign b)) = false) :
    numbersArith dir .sub a b = numbersArith dir .add a (negateDouble b) := by
  refine addNumbers_eq_of_valid _ fun ha hb => ?_
  rw [isInf_negateDouble] at hb
  have hsign : dSign a ≠ dSign b := by simpa [ha, hb] using h
  rw [dSign_negateDouble]
  exact Bool.eq_not.2 hsign

end

/-- Settles O50: a NaN operand is looked for first, and each row after it is a branch of its operation. -/
theorem fpSpecialCases : Obligations.FpSpecialCases := by
  refine fun a b => ⟨fun hnan op => ?nan, fun ha hb => ?numbers⟩
  case nan =>
    rw [ieeeArith_of_nan hnan]
    exact ⟨isQuietNaN_genNaN .., rfl⟩
  case numbers =>
    have hnegb : isNaN (negateDouble b) = false := (isNaN_negateDouble b).trans hb
    simp only [ieeeArith_of_numbers ha hb, ieeeArith_of_numbers hb ha, ieeeArith_of_numbers ha hnegb]
    have hneginf := isInf_negateDouble b
    refine ⟨fun op h => ?invalid, divNumbers_by_zero,
      fun hx hy => ⟨addNumbers_of_left_infinity hx (by simp [hy]), addNumbers_of_left_infinity hx (by simp [hneginf, hy]),
        divNumbers_of_left_infinity hx hy⟩,
      fun hx hy => ⟨mulNumbers_of_infinity_nonzero (.inl hx) (isZero_of_isInf hx) hy, ?swapped⟩,
      fun hx hy => ⟨addNumbers_of_right_infinity hx hy, addNumbers_of_right_infinity hx (hneginf.trans hy),
        divNumbers_by_infinity hx hy⟩,
      fun hx _ hsign => addNumbers_of_left_infinity hx fun _ => hsign,
      fun hx _ hsign => addNumbers_of_left_infinity hx fun _ => (dSign_negateDouble b).symm ▸ Bool.eq_not.2 hsign,
      addNumbers_of_zero_sum, numbersArith_sub⟩
    case invalid =>
      rw [numbersArith_of_invalid (by cases op <;> exact h)]
      exact ⟨isQuietNaN_genNaN .., rfl⟩
    case swapped =>
      rw [Bool.xor_comm]
      exact mulNumbers_of_infinity_nonzero (.inr hx) hy (isZero_of_isInf hx)

end Sys2Proof.Machine

/-! PROOFS. The conversions between integers and doubles (spec 47_floating_point.md R268, R269): every integer of 32 bits is a double, and a
double is truncated to an integer when it is finite and fits. -/

namespace Sys2Proof.Machine

/-! ### Exact rounding -/

/-- A number of at most 53 bits times a power of two fits in the significand. -/
theorem isInexact_mul_two_pow {n : Nat} (hn : n < 2 ^ 53) (j : Nat) : isInexact (n * 2 ^ j) 1 = false := by
  have hplace : lastPlace (n * 2 ^ j) 1 ≤ j := by
    rw [lastPlace, Nat.div_one]
    rcases Nat.eq_zero_or_pos (n * 2 ^ j) with hzero | hpos
    · simp [hzero]
    · have hbits : n * 2 ^ j < 2 ^ (53 + j) := by
        rw [Nat.pow_add]
        exact Nat.mul_lt_mul_of_pos_right hn (by positivity)
      have hlog := (Nat.log2_lt hpos.ne').2 hbits
      omega
  have hdvd : 2 ^ lastPlace (n * 2 ^ j) 1 ∣ n * 2 ^ j := (pow_dvd_pow 2 hplace).trans (Nat.dvd_mul_left _ _)
  rw [isInexact, Nat.one_mul, Nat.mod_eq_zero_of_dvd hdvd]
  rfl

theorem mul_two_pow_lt_mul_two_pow {n m j k : Nat} (hn : n < m) (hj : j < k) : n * 2 ^ j < m * 2 ^ k :=
  Nat.mul_lt_mul'' hn (Nat.pow_lt_pow_right Nat.one_lt_two hj)

/-- An exact magnitude below the overflow threshold is the value of its rounded double. -/
theorem roundResult_of_exact (neg : Bool) {num den : Nat} (hden : 0 < den) (hexact : isInexact num den = false)
    (hsmall : num < overflowThreshold * den) :
    dExp (roundResult .nearestEven neg num den).value < 2047 ∧
      dVal (roundResult .nearestEven neg num den).value * den = signed neg num := by
  have hR := Nat.not_le.1 (mt (infBits_le_roundedBits_iff neg num hden).1 hsmall.not_ge)
  rw [roundResult_of_lt hR]
  refine ⟨dExp_withSign_lt neg hR, ?_⟩
  rw [dVal_withSign neg (hR.trans (by decide)), signed_mul, (bitsMag_roundedBits_eq_iff neg num hden).2 hexact]

/-! ### From an integer to a double (R268) -/

theorem natAbs_toInt_lt (v : Word) : v.toInt.natAbs < 2 ^ 32 := by
  have hlo := v.le_toInt
  have hhi := v.toInt_lt
  omega

/-- The double of an integer is finite and has its value. -/
theorem intToDouble_value (v : Word) : dExp (intToDouble v) < 2047 ∧ dVal (intToDouble v) = v.toInt * 2 ^ 1074 := by
  rw [intToDouble]
  split
  · next hzero =>
    rw [dVal_signedZero, hzero]
    exact ⟨dExp_withSign_lt false (by decide), (Int.zero_mul _).symm⟩
  · next hne =>
    have hbound := natAbs_toInt_lt v
    have hexact := isInexact_mul_two_pow (hbound.trans (by decide)) 1074
    have hsmall : v.toInt.natAbs * 2 ^ 1074 < overflowThreshold * 1 := by
      rw [overflowThreshold_eq, Nat.mul_one]
      exact mul_two_pow_lt_mul_two_pow (hbound.trans (by decide)) (by decide)
    obtain ⟨hfinite, hvalue⟩ := roundResult_of_exact (decide (v.toInt < 0)) Nat.one_pos hexact hsmall
    refine ⟨hfinite, ?_⟩
    rwa [← signed_mul, ← eq_signed_decide, Nat.cast_one, Int.mul_one, Nat.cast_pow, Nat.cast_ofNat] at hvalue

/-- Settles O52: rounding the integer is exact, so that its double has its value. -/
theorem fitodResult : Obligations.FitodResult := by
  intro s rs2 rd hef
  obtain ⟨hfinite, hvalue⟩ := intToDouble_value (s.freg rs2)
  exact ⟨hasOpf_of_unary rfl rfl, fieldRs1_wordFp .., oddFaults_of_withEven rfl hef, fun hrd =>
    ⟨intToDouble (s.freg rs2), hfinite, hvalue, fun hzero => if_pos hzero,
      answers_of_fpop rfl hef (by simpa using hrd) (IeeeFlags.none_meets _) (fpop_double_state ..)⟩⟩

/-! ### From a double to an integer (R269) -/

theorem truncDouble_eq_signed (d : Dword) : truncDouble d = signed (dSign d) (dMag d / 2 ^ 1074) := rfl

theorem signed_tdiv (neg : Bool) (x y : Nat) : (signed neg x).tdiv y = signed neg (x / y) := by
  cases neg
  · exact (Int.ofNat_tdiv x y).symm
  · exact (Int.neg_tdiv ..).trans (congrArg _ (Int.ofNat_tdiv x y).symm)

theorem truncDouble_eq_tdiv (d : Dword) : truncDouble d = (dVal d).tdiv (2 ^ 1074) := by
  rw [truncDouble_eq_signed, dVal_eq_signed, ← signed_tdiv]
  norm_cast

theorem fdtoiIsInvalid_eq_false_iff (d : Dword) :
    fdtoiIsInvalid d = false ↔ dExp d < 2047 ∧ -2 ^ 31 ≤ truncDouble d ∧ truncDouble d ≤ 2 ^ 31 - 1 := by
  rw [dExp_lt_iff_not_special]
  simp [fdtoiIsInvalid, and_assoc]

/-- A finite double has a fraction part exactly when truncation loses something. -/
theorem hasFraction_eq {d : Dword} (h : dExp d < 2047) : hasFraction d = decide (dVal d ≠ truncDouble d * 2 ^ 1074) := by
  have hwhole : dVal d = truncDouble d * 2 ^ 1074 ↔ dMag d % 2 ^ 1074 = 0 := by
    have hproduct : truncDouble d * 2 ^ 1074 = signed (dSign d) (dMag d / 2 ^ 1074 * 2 ^ 1074) := by
      rw [truncDouble_eq_signed, ← signed_mul]
      norm_cast
    have hsplit := Nat.div_add_mod' (dMag d) (2 ^ 1074)
    rw [hproduct, dVal_eq_signed, signed_inj]
    omega
  rw [hasFraction, isNaN_of_dExp_lt h, isInf_of_dExp_lt h, ← decide_eq_decide.2 (not_congr hwhole)]
  rfl

theorem hasFraction_of_dExp_eq {d : Dword} (h : dExp d = 2047) : hasFraction d = false := by
  have hspecial : ¬(isNaN d = false ∧ isInf d = false) := mt (dExp_lt_iff_not_special d).2 h.not_lt
  have hnumber : (!isNaN d && !isInf d) = false := by
    rw [Bool.eq_false_iff]
    simpa using hspecial
  rw [hasFraction, hnumber, Bool.false_and]

theorem fdtoi_answers {s : State} {rs2 rd : FReg} (hfpu : s.standardFpu) (hrs2 : rs2.toNat % 2 = 0) :
    Answers (.fdtoi rs2 rd) s (fun t =>
      WroteFloat rd (doubleToInt (s.dreg rs2)).1 s t ∧ RaisedFlags (doubleToInt (s.dreg rs2)).2 s t ∧ Advances s t ∧
        OnlyChanged [.floats, .fpStatus] s t) :=
  answers_of_fpop rfl hfpu.enabled (by simpa using hrs2) (by rw [hfpu.untrapped, IeeeFlags.meets_none]) (fpop_single_state ..)

/-- Settles O53: the two cases of the conversion are the two of the statement. -/
theorem fdtoiResult : Obligations.FdtoiResult := by
  refine fun s rs2 rd q hfpu => ⟨hasOpf_of_unary rfl rfl, fieldRs1_wordFp .., oddFaults_of_withEven rfl hfpu.enabled,
    fun hrs2 hq => ⟨fun hfits => ?fits, fun hfits => ?invalid⟩⟩
  all_goals
    have hanswers := fdtoi_answers (rd := rd) hfpu hrs2
    rw [← truncDouble_eq_tdiv] at hq
    subst hq
    rw [← fdtoiIsInvalid_eq_false_iff] at hfits
  case fits =>
    obtain ⟨hfinite, -⟩ := (fdtoiIsInvalid_eq_false_iff _).1 hfits
    rw [doubleToInt, if_neg (by simp [hfits]), hasFraction_eq hfinite] at hanswers
    exact hanswers
  case invalid =>
    rw [doubleToInt, if_pos (by simpa using hfits)] at hanswers
    obtain ⟨t, hexec, hwrote, hraised, hrest⟩ := hanswers
    refine ⟨t, hexec, ⟨_, hwrote⟩, ⟨_, hraised, fun hwhole => ?_⟩, hrest⟩
    have hfraction : hasFraction (s.dreg rs2) = false := by
      rcases (dExp_le (s.dreg rs2)).lt_or_eq with hfinite | hspecial
      · rw [hasFraction_eq hfinite]
        exact decide_eq_false (not_not_intro (hwhole.resolve_left hfinite.ne))
      · exact hasFraction_of_dExp_eq hspecial
    rw [hfraction, Bool.false_and]

end Sys2Proof.Machine
